-- ==== Sys2Proof/Word.lean ====
section
/-! DEFINITION. The word types of the block: a register word (20_memory.md R202), a limb (00_scope.md R7), a byte
lane (R204) and an offset in the register window (R200). -/

namespace Sys2Proof

/-- One byte lane of the data bus (20_memory.md R204). -/
abbrev Byte := BitVec 8

/-- One 32-bit register or command word (20_memory.md R202, 30_encoding.md R300). -/
abbrev Word := BitVec 32

/-- One limb: an unsigned integer in [0, 2^15) (00_scope.md R7). -/
abbrev Limb := BitVec 15

/-- A byte offset in the register window of 2^20 bytes (20_memory.md R200). -/
abbrev Offset := BitVec 20

/-- W, the limb width (00_scope.md R7). -/
abbrev limbWidth : Nat := 15

/-- The limb base 2^15 (00_scope.md R7). -/
abbrev limbBase : Nat := 32768

end Sys2Proof
end

