-- ==== Sys2Proof/Config.lean ====
section
/-! DEFINITION. What an implementation or its platform fixes (92_eei_decisions.md, open parameters), and the free
values: constants with no body, for what the spec calls unspecified. -/

namespace Sys2Proof

/-- The parameters the spec leaves OPEN and a step reads: `lmax` is LMAX, the limbs of each operand register
(00_scope.md R8); `base` is BASE, the host address of the register window (R11). -/
structure Config where
  lmax : Nat
  base : Nat
deriving DecidableEq, Repr

/-- RMAX = 2 * LMAX, the limbs of the result register (00_scope.md R9). -/
def Config.rmax (c : Config) : Nat := 2 * c.lmax

/-- An unspecified limb cell (10_state.md R115, R120; 93_implementation_defined.md U1, U3, U4), the k-th draw. -/
opaque Config.freeLimb : Nat → Limb

/-- An unspecified value on the read data lines (70_reset_and_hazards.md R712; U2), the k-th draw. -/
opaque Config.freeWord : Nat → Word

/-- The level of irq while the reset input is asserted: the block's state is undefined then (70_reset_and_hazards.md
R701). One level for each assertion (DESIGN CHOICE, log 23). -/
opaque Config.freeIrq : Nat → Bool

end Sys2Proof
end

