-- ==== Sys2Proof/Syntax.lean ====
section
/-! DEFINITION. The commands of LDP-1 (30_encoding.md R303), the error codes a refusal reports (60_exceptions.md
R601) and what decoding a command word gives (30_encoding.md R309). -/

namespace Sys2Proof

/-- The commands, one constructor per row of opcode_table.json. Every operand is implicit but the shift amount
SHAMT, an 8-bit number of which only 0 to 15 are legal (30_encoding.md R302). -/
inductive Instr where
  | nop                    -- R550
  | addm                   -- R410
  | subm                   -- R411
  | add                    -- R412
  | sub                    -- R413
  | mul                    -- R414
  | and                    -- R460
  | or                     -- R461
  | xor                    -- R462
  | shl (n : BitVec 8)     -- R510
  | shr (n : BitVec 8)     -- R511
  | neg                    -- R551
  | copy                   -- R552
  | movra                  -- R556
  | movrb                  -- R557
deriving DecidableEq, Repr

/-- STATUS.ERRCODE's values (60_exceptions.md R601). Codes 5 to 15 are never reported, so they have no name. -/
inductive ErrCode where
  | none          -- 0: no error
  | badOpcode     -- 1
  | badShamt      -- 2
  | badLength     -- 3
  | capacity      -- 4
deriving DecidableEq, Repr

/-- What a 32-bit word decodes to: a legal command, or a refusal with its code (30_encoding.md R309). -/
inductive Decoded where
  | cmd (i : Instr)
  | refuse (code : ErrCode)
deriving DecidableEq, Repr

end Sys2Proof
end

