-- ==== Sys2Proof/WellFormed.lean ====
section
/-! DEFINITION. Which commands and which parameters are legal. -/

namespace Sys2Proof

/-- A command is well formed when its shift amount is legal: 0 <= n <= 15 (00_scope.md R10, 42_shift.md R500). -/
def Instr.wf : Instr → Bool
  | .shl n | .shr n => decide (n.toNat ≤ 15)
  | .nop | .addm | .subm | .add | .sub | .mul | .and | .or | .xor | .neg | .copy | .movra | .movrb => true

/-- Legal parameters: 1 <= LMAX <= 32767 (00_scope.md R8) and BASE a multiple of 2^20 (R11). -/
def Config.wf (c : Config) : Bool :=
  decide (1 ≤ c.lmax) && decide (c.lmax ≤ 32767) && decide (c.base % 2 ^ 20 = 0)

end Sys2Proof
end

