-- ==== Sys2Proof/Decode.lean ====
section
/-! DEFINITION. Decoding and encoding of command words (30_encoding.md R300, R301, R303 to R309), over the four byte
lanes of a register word (20_memory.md R204). -/

namespace Sys2Proof

/-! ### Fields of a command word (R301) -/

/-- OP = w[4:0]. -/
def fieldOp (w : Word) : BitVec 5 := w.extractLsb' 0 5

/-- RSV0 = w[7:5]. -/
def fieldRsv0 (w : Word) : BitVec 3 := w.extractLsb' 5 3

/-- SHAMT = w[15:8], 0 to 255. -/
def fieldShamt (w : Word) : BitVec 8 := w.extractLsb' 8 8

/-- RSV1 = w[31:16]. -/
def fieldRsv1 (w : Word) : BitVec 16 := w.extractLsb' 16 16

/-! ### The opcode map (R303) -/

/-- The row of R303's table an opcode names; none for the reserved opcodes 0x0F to 0x1F (R304). -/
def commandOf (op : BitVec 5) (n : BitVec 8) : Option Instr :=
  match op.toNat with
  | 0x00 => some .nop
  | 0x01 => some .addm
  | 0x02 => some .subm
  | 0x03 => some .add
  | 0x04 => some .sub
  | 0x05 => some .mul
  | 0x06 => some .and
  | 0x07 => some .or
  | 0x08 => some .xor
  | 0x09 => some (.shl n)
  | 0x0A => some (.shr n)
  | 0x0B => some .neg
  | 0x0C => some .copy
  | 0x0D => some .movra
  | 0x0E => some .movrb
  | _ => none

/-- The commands that use SHAMT: SHL and SHR (R300). -/
def Instr.isShift : Instr → Bool
  | .shl _ | .shr _ => true
  | .nop | .addm | .subm | .add | .sub | .mul | .and | .or | .xor | .neg | .copy | .movra | .movrb => false

/-- Decoding of a command word, total, in the order of R309. -/
def decode (w : Word) : Decoded :=
  if fieldRsv1 w ≠ 0 ∨ fieldRsv0 w ≠ 0 then .refuse .badOpcode
  else
    match commandOf (fieldOp w) (fieldShamt w) with
    | none => .refuse .badOpcode
    | some i =>
      if i.isShift = false ∧ fieldShamt w ≠ 0 then .refuse .badOpcode
      else if i.isShift = true ∧ 15 < (fieldShamt w).toNat then .refuse .badShamt
      else .cmd i

/-! ### Byte lanes (20_memory.md R204) -/

/-- The word on the data lines when the byte at offset + j is `bj`: byte j holds bits [8j+7:8j]. -/
def wordOfLanes (b0 b1 b2 b3 : Byte) : Word := b3 ++ b2 ++ b1 ++ b0

/-- Byte lane j of a word: bits [8j+7:8j]. -/
def laneOf (w : Word) (j : Nat) : Byte := w.extractLsb' (8 * j) 8

/-- The decoder on any bytes: a command is exactly one 32-bit word in one access (R310), so it takes four bytes and
gives back the rest; fewer than four bytes are no command word. -/
def decodeBytes : List Byte → Option (Decoded × List Byte)
  | b0 :: b1 :: b2 :: b3 :: rest => some (decode (wordOfLanes b0 b1 b2 b3), rest)
  | _ => none

/-- The host's question: the instruction the decoder reads from the command word `w`, its bits above `nbits` zero. -/
def decodeTableWord (nbits w : Nat) : Option Instr :=
  let v : Word := BitVec.ofNat 32 (w % 2 ^ nbits)
  match decodeBytes [laneOf v 0, laneOf v 1, laneOf v 2, laneOf v 3] with
  | some (.cmd i, _) => some i
  | some (.refuse _, _) => none
  | none => none

/-! ### Encoding (R300, R303) -/

/-- OP of each command (R303). -/
def Instr.opcode : Instr → BitVec 5
  | .nop => 0x00
  | .addm => 0x01
  | .subm => 0x02
  | .add => 0x03
  | .sub => 0x04
  | .mul => 0x05
  | .and => 0x06
  | .or => 0x07
  | .xor => 0x08
  | .shl _ => 0x09
  | .shr _ => 0x0A
  | .neg => 0x0B
  | .copy => 0x0C
  | .movra => 0x0D
  | .movrb => 0x0E

/-- SHAMT of each command: the shift amount of SHL and SHR, 0 for the others (R306). -/
def Instr.shamt : Instr → BitVec 8
  | .shl n | .shr n => n
  | .nop | .addm | .subm | .add | .sub | .mul | .and | .or | .xor | .neg | .copy | .movra | .movrb => 0

/-- The command word: RSV1 = 0, SHAMT, RSV0 = 0, OP (R300). It encodes every amount from 0 to 255, legal or not, so
that a refusal can be tested (R311). -/
def encode (i : Instr) : Word := (0 : BitVec 16) ++ i.shamt ++ (0 : BitVec 3) ++ i.opcode

end Sys2Proof
end

