-- ==== Sys2Proof/Machine/Limbs.lean ====
section
/-! DEFINITION. Values of limb arrays (00_scope.md R15) and the limb-by-limb computations of the datapath: comparison,
carry adder, borrow subtractor, partial-product multiplier (40_arithmetic.md R401 to R404), bitwise lanes
(41_bitwise.md R450) and shifter lanes (42_shift.md R501, R502). An operand here is the list of the limbs the command
reads, limb 0 first, so its length is LEN. -/

namespace Sys2Proof.Machine

open Sys2Proof

/-! ### Values (R15) -/

/-- val(X, L) of the L limbs given: the sum of X[i] * 2^(15*i). -/
def limbsVal : List Limb → Nat
  | [] => 0
  | x :: xs => x.toNat + limbBase * limbsVal xs

/-- nlen(v): the least L with v < 2^(15*L); nlen(0) = 0. -/
def nlen (v : Nat) : Nat := if v = 0 then 0 else v.log2 / limbWidth + 1

/-- limb(v, i) = (v >> (15*i)) & 0x7FFF. -/
def limbOf (v i : Nat) : Limb := BitVec.ofNat limbWidth (v >>> (limbWidth * i))

/-- Limb i of an operand, right-aligned: a limb past its length is 0 (R402, R450). -/
def laneAt (xs : List Limb) (i : Nat) : Limb := xs.getD i 0

/-- The lanes of two right-aligned operands, lane 0 first: n = max(LX, LY) of them (R402, R450). -/
def lanePairs (xs ys : List Limb) : List (Limb × Limb) :=
  (List.range (max xs.length ys.length)).map fun i => (laneAt xs i, laneAt ys i)

/-! ### Comparison (R401) -/

/-- The loop of CmpMag over limbs n-1 down to 0: the first limb that differs decides. -/
def cmpLimbs (xs ys : List Limb) : Nat → Ordering
  | 0 => .eq
  | n + 1 =>
    if laneAt xs n = laneAt ys n then cmpLimbs xs ys n
    else if (laneAt ys n).toNat < (laneAt xs n).toNat then .gt else .lt

/-- CmpMag: normalized lengths first, then limbs from the most significant (R401). -/
def cmpMag (xs ys : List Limb) : Ordering :=
  let nx := nlen (limbsVal xs)
  let ny := nlen (limbsVal ys)
  if nx = ny then cmpLimbs xs ys nx else if ny < nx then .gt else .lt

/-! ### Carry-propagate adder (R402) -/

/-- The loop of AddMag: t = x + y + c, S[i] = t[14:0], the carry t[15] goes to the next limb, and the last carry is the
one extra limb. -/
def addLanes : Nat → List (Limb × Limb) → List Limb
  | c, [] => [BitVec.ofNat limbWidth c]
  | c, (x, y) :: rest =>
    let t := x.toNat + y.toNat + c
    BitVec.ofNat limbWidth t :: addLanes (t / limbBase) rest

/-- AddMag (R402). -/
def addMag (xs ys : List Limb) : Nat := limbsVal (addLanes 0 (lanePairs xs ys))

/-! ### Borrow-propagate subtractor (R403) -/

/-- The loop of SubMag: t = x - y - b; a negative t is raised by 2^15 and borrows from the next limb. -/
def subLanes : Nat → List (Limb × Limb) → List Limb
  | _, [] => []
  | b, (x, y) :: rest =>
    if x.toNat < y.toNat + b then
      BitVec.ofNat limbWidth (x.toNat + limbBase - (y.toNat + b)) :: subLanes 1 rest
    else BitVec.ofNat limbWidth (x.toNat - (y.toNat + b)) :: subLanes 0 rest

/-- SubMag (R403), applied only when val(X) >= val(Y). -/
def subMag (xs ys : List Limb) : Nat := limbsVal (subLanes 0 (lanePairs xs ys))

/-! ### Partial-product multiplier (R404) -/

/-- The inner loop of MulMag for one limb x of X: over the limbs Y[j] and the accumulator cells P[i+j],
t = x*Y[j] + P[i+j] + c, P[i+j] = t[14:0], c = t >> 15; at its end P[i+LY] = c. -/
def mulRow (x : Limb) : Nat → List (Limb × Limb) → List Limb
  | c, [] => [BitVec.ofNat limbWidth c]
  | c, (y, p) :: rest =>
    let t := x.toNat * y.toNat + p.toNat + c
    BitVec.ofNat limbWidth t :: mulRow x (t / limbBase) rest

/-- The outer loop of MulMag. `acc` holds the LY accumulator cells from P[i] up: after the row of X[i] the cell P[i] is
final, and the window moves up one limb. -/
def mulRows (ys : List Limb) : List Limb → List Limb → List Limb
  | [], acc => acc
  | x :: xs, acc =>
    match mulRow x 0 (ys.zip acc) with
    | [] => []
    | p :: acc' => p :: mulRows ys xs acc'

/-- MulMag (R404). -/
def mulMag (xs ys : List Limb) : Nat := limbsVal (mulRows ys xs (List.replicate ys.length 0))

/-! ### Bitwise lanes (41_bitwise.md R450) -/

/-- The lanes of two right-aligned operands combined each on its own (R450). -/
def mapLanes (f : Limb → Limb → Limb) (xs ys : List Limb) : List Limb :=
  (lanePairs xs ys).map fun p => f p.1 p.2

/-! ### Shifter lanes (42_shift.md R501, R502) -/

/-- SL(i) = ((X[i] << n) | (X[i-1] >> (15 - n))) & 0x7FFF, with X[-1] = X[L] = 0 (R501). -/
def shlLane (n : Nat) (xs : List Limb) (i : Nat) : Limb :=
  let below := if i = 0 then (0 : Limb) else laneAt xs (i - 1)
  BitVec.ofNat limbWidth (((laneAt xs i).toNat <<< n) ||| (below.toNat >>> (limbWidth - n)))

/-- The L + 1 output lanes of a left shift (R501). -/
def shlLimbs (n : Nat) (xs : List Limb) : List Limb :=
  (List.range (xs.length + 1)).map (shlLane n xs)

/-- SR(i) = ((X[i] >> n) | (X[i+1] << (15 - n))) & 0x7FFF, with X[L] = 0 (R502). -/
def shrLane (n : Nat) (xs : List Limb) (i : Nat) : Limb :=
  BitVec.ofNat limbWidth (((laneAt xs i).toNat >>> n) ||| ((laneAt xs (i + 1)).toNat <<< (limbWidth - n)))

/-- The L output lanes of a right shift (R502). -/
def shrLimbs (n : Nat) (xs : List Limb) : List Limb :=
  (List.range xs.length).map (shrLane n xs)

/-- OUT = X[0] & ((1 << n) - 1), the n bits shifted out; 0 when L = 0 or n = 0 (R502). -/
def shrOut (n : Nat) (xs : List Limb) : Limb :=
  laneAt xs 0 &&& BitVec.ofNat limbWidth ((1 <<< n) - 1)

end Sys2Proof.Machine
end

