-- ==== Sys2Proof/Machine/State.lean ====
section
/-! DEFINITION. The state of the block (10_state.md R100), what the host and the platform do to it (a list of turns),
and the state after a hardware reset (R120). Plain data. -/

namespace Sys2Proof.Machine

open Sys2Proof

/-- A limb file with its length and sign: A with LENA, B with LENB, R with LENR (R101 to R105). `limbs` has index 0
first, the least significant (00_scope.md R14); `len` is the 16-bit LEN field, `sign` the SIGN bit. -/
structure BigReg where
  limbs : List Limb
  len : BitVec 16
  sign : Bool
deriving DecidableEq, Repr

/-- STATUS.CMP (R109). -/
inductive Cmp where
  | none     -- 0b00: not computed
  | gt       -- 0b01: val_A > val_B
  | lt       -- 0b10: val_A < val_B
  | eq       -- 0b11: val_A = val_B
deriving DecidableEq, Repr

/-- What the host or the platform does in one turn. -/
inductive Access where
  /-- Nothing: only time passes. -/
  | idle
  /-- MemRead of 32 bits at a host address (00_scope.md R16). -/
  | read (addr : Nat)
  /-- MemWrite of 32 bits at a host address (00_scope.md R16). -/
  | write (addr : Nat) (v : Word)
  /-- An access narrower than 32 bits, which only the platform's bridge could widen (20_memory.md R202). -/
  | narrow (addr : Nat)
  /-- The reset input: asserted (`true`) or deasserted (`false`) (70_reset_and_hazards.md R701). -/
  | rst (asserted : Bool)
deriving DecidableEq, Repr

/-- One turn of the schedule: one access, and whether the datapath steps before the next access (10_state.md R118,
60_exceptions.md R607, 70_reset_and_hazards.md R713). -/
structure Turn where
  access : Access
  datapath : Bool
deriving DecidableEq, Repr

/-- Why the machine stops with a fault. -/
inductive Fault where
  /-- A host access to the window while the reset input is asserted, raised by `hostStep`. The spec gives it no step
  (70_reset_and_hazards.md R701, 93_implementation_defined.md U7: stuck). Safe. -/
  | accessDuringReset
deriving DecidableEq, Repr

/-- Why the model gives no meaning. -/
inductive Refusal where
  /-- An instruction that has no meaning yet, raised in `exec`'s arm only. Safe. -/
  | notModelled (mnemonic : String)
  /-- A host address outside the block's window, raised by `hostStep`: another device's, whose behaviour the spec does
  not give (20_memory.md R215). Safe. -/
  | outsideWindow
  /-- An access narrower than 32 bits, raised by `hostStep`: what the platform's bridge does with it is the OPEN
  parameter BRIDGE_NARROW (20_memory.md R202, 93_implementation_defined.md U8). Safe. -/
  | narrowAccess
deriving DecidableEq, Repr

/-- The state: the block's (R100), the platform's parameters and reset input, and the model's own last three fields.
STATUS.BUSY is 'a command is in flight' (R118), and Z, N, ID, PARAM and irq are computed (R121), so they have no field. -/
structure State where
  /-- LMAX and BASE; no step writes it. -/
  cfg : Config
  /-- Operand A with LENA (R101, R102). -/
  a : BigReg
  /-- Operand B with LENB (R103). -/
  b : BigReg
  /-- Result R with LENR (R104, R105). -/
  r : BigReg
  /-- SHOUT (R106). -/
  shout : Limb
  /-- CTRL.IE (R107). -/
  ie : Bool
  /-- STATUS.DONE (R108). -/
  done : Bool
  /-- STATUS.ERR (R108). -/
  err : Bool
  /-- STATUS.OVR (R108). -/
  ovr : Bool
  /-- STATUS.CMP (R108, R109). -/
  cmp : Cmp
  /-- STATUS.ERRCODE (R108, 60_exceptions.md R601). -/
  errcode : ErrCode
  /-- The in-flight command (R118): opcode and shift amount, decoded. -/
  inflight : Option Instr
  /-- The reset input is asserted (70_reset_and_hazards.md R700). -/
  rst : Bool
  /-- The model's own: the turns still to come, oldest first. -/
  inputs : List Turn
  /-- The model's own: the value the last MemRead returned. -/
  rdata : Word
  /-- The model's own: how many free values have been drawn. -/
  draws : Nat
deriving DecidableEq, Repr

/-- `n` limb cells with unspecified contents, the draws `first`, `first + 1`, … (10_state.md R115, R120). -/
def drawLimbs (first n : Nat) : List Limb := (List.range n).map fun i => Config.freeLimb (first + i)

/-- The state after a hardware reset with given parameters (R120). The limb cells are unspecified there: each holds a
free value, the first 4 * LMAX draws. -/
def State.resetWith (cfg : Config) : State where
  cfg := cfg
  a := { limbs := drawLimbs 0 cfg.lmax, len := 0, sign := false }
  b := { limbs := drawLimbs cfg.lmax cfg.lmax, len := 0, sign := false }
  r := { limbs := drawLimbs (2 * cfg.lmax) cfg.rmax, len := 0, sign := false }
  shout := 0
  ie := false
  done := false
  err := false
  ovr := false
  cmp := .none
  errcode := .none
  inflight := none
  rst := false
  inputs := []
  rdata := 0
  draws := 4 * cfg.lmax

/-- The machine right after reset. LMAX = 64 is the value of the spec's examples (00_scope.md R8), BASE = 0: both are
OPEN in the spec, and every statement is made for any legal values (DESIGN CHOICE, log 3 and 4). -/
def State.reset : State := State.resetWith { lmax := 64, base := 0 }

end Sys2Proof.Machine
end

