-- ==== Sys2Proof/Machine/Operands.lean ====
section
/-! DEFINITION. The operands a command reads: the implicit registers (30_encoding.md R302, R303) and their values and
effective signs (10_state.md R113). -/

namespace Sys2Proof.Machine

open Sys2Proof

/-- The limbs [0, LEN) of a register; the limbs above are not read (R113). -/
def BigReg.operand (x : BigReg) : List Limb := x.limbs.take x.len.toNat

/-- val(X, LEN) (R113, 00_scope.md R15). -/
def BigReg.value (x : BigReg) : Nat := limbsVal x.operand

/-- The effective sign: SIGN when the value is nonzero, else 0 (R113). -/
def BigReg.effSign (x : BigReg) : Bool := x.sign && decide (x.value ≠ 0)

/-- The signed value (00_scope.md R17). -/
def BigReg.signed (x : BigReg) : Int := if x.sign then -(x.value : Int) else x.value

end Sys2Proof.Machine

namespace Sys2Proof

/-- The commands that read A (30_encoding.md R303, 60_exceptions.md R601). -/
def Instr.readsA : Instr → Bool
  | .addm | .subm | .add | .sub | .mul | .and | .or | .xor | .shl _ | .shr _ | .neg | .copy => true
  | .nop | .movra | .movrb => false

/-- The commands that read B (30_encoding.md R303, 60_exceptions.md R601). -/
def Instr.readsB : Instr → Bool
  | .addm | .subm | .add | .sub | .mul | .and | .or | .xor => true
  | .nop | .shl _ | .shr _ | .neg | .copy | .movra | .movrb => false

/-- The commands that move R into an operand register (30_encoding.md R303, 60_exceptions.md R601). -/
def Instr.movesR : Instr → Bool
  | .movra | .movrb => true
  | .nop | .addm | .subm | .add | .sub | .mul | .and | .or | .xor | .shl _ | .shr _ | .neg | .copy => false

/-- The commands that write R, LENR and CMP: every command except NOP, MOVRA and MOVRB (10_state.md R104, R117). -/
def Instr.writesR : Instr → Bool
  | .addm | .subm | .add | .sub | .mul | .and | .or | .xor | .shl _ | .shr _ | .neg | .copy => true
  | .nop | .movra | .movrb => false

end Sys2Proof
end

