-- ==== Sys2Proof/Machine/Flags.lean ====
section
/-! DEFINITION. STATUS and its fields (10_state.md R108, R109, R117, 60_exceptions.md R601), and the interrupt output
(R119). -/

namespace Sys2Proof.Machine

open Sys2Proof

/-- The two bits of STATUS.CMP (R109). -/
def Cmp.bits : Cmp → BitVec 2
  | .none => 0b00
  | .gt => 0b01
  | .lt => 0b10
  | .eq => 0b11

/-- enc: a comparison of the magnitudes of A and B as STATUS.CMP (R109). -/
def Cmp.ofOrdering : Ordering → Cmp
  | .gt => .gt
  | .lt => .lt
  | .eq => .eq

/-- The four bits of STATUS.ERRCODE (60_exceptions.md R601). -/
def errBits : ErrCode → BitVec 4
  | .none => 0
  | .badOpcode => 1
  | .badShamt => 2
  | .badLength => 3
  | .capacity => 4

/-- STATUS.BUSY: an accepted command is in flight (R108, R118). -/
def State.busy (s : State) : Bool := s.inflight.isSome

/-- STATUS.Z, a live view: LEN_R = 0 (R108). -/
def State.zFlag (s : State) : Bool := decide (s.r.len = 0)

/-- STATUS.N, a live view: SIGN_R (R108). -/
def State.nFlag (s : State) : Bool := s.r.sign

/-- The STATUS word (R108): [31:12] reserved, [11:8] ERRCODE, [7:6] CMP, [5] N, [4] Z, [3] OVR, [2] ERR, [1] DONE,
[0] BUSY. -/
def State.statusWord (s : State) : Word :=
  (0 : BitVec 20) ++ errBits s.errcode ++ s.cmp.bits ++ BitVec.ofBool s.nFlag ++ BitVec.ofBool s.zFlag ++
    BitVec.ofBool s.ovr ++ BitVec.ofBool s.err ++ BitVec.ofBool s.done ++ BitVec.ofBool s.busy

/-- The interrupt output, a level: CTRL.IE AND STATUS.DONE (R119). While the reset input is asserted the block's state
is undefined (70_reset_and_hazards.md R701), so the level is a free value. Whether the undefined level may change while
reset stays asserted the spec leaves open: here it is one level for the whole assertion (DESIGN CHOICE, log 23). -/
def State.irq (s : State) : Bool := if s.rst then Config.freeIrq s.draws else s.ie && s.done

end Sys2Proof.Machine
end

