-- ==== Sys2Proof/Machine/Ops.lean ====
section
/-! DEFINITION. The operations the commands share: writing a result (10_state.md R114, R115), refusing a command
(60_exceptions.md R603: what this block has in place of a trap), accepting it (R602), completing it (R604), and reset
(R120). There is no return from a refusal: the host clears its flags by STATUS, or accepts the next command (R609). -/

namespace Sys2Proof.Machine

open Sys2Proof

/-! ### Writing registers -/

/-- The RMAX cells of R after a command wrote the magnitude `m`: limb(m, i) below nlen(m) (R114), an unspecified value
above it (R115), fixed when written so that two reads agree (20_memory.md R212). -/
def resultLimbs (m rmax draws : Nat) : List Limb :=
  (List.range rmax).map fun i => if i < nlen m then limbOf m i else Config.freeLimb (draws + i)

/-- Finish(m, s): R holds m normalized and canonical (R114). -/
def State.finish (s : State) (m : Nat) (sign : Bool) : State :=
  { s with
    r := { limbs := resultLimbs m s.cfg.rmax s.draws
           len := BitVec.ofNat 16 (nlen m)
           sign := sign && decide (m ≠ 0) }
    draws := s.draws + s.cfg.rmax }

/-- STATUS.CMP <- c (R117). -/
def State.setCmp (s : State) (c : Cmp) : State := { s with cmp := c }

/-- SHOUT <- v (42_shift.md R511). -/
def State.setShout (s : State) (v : Limb) : State := { s with shout := v }

/-- A register after R has been moved into it: limbs below LEN_R replaced, the others kept, LEN and SIGN those of R
(43_transfer.md R556). -/
def BigReg.moveFrom (x r : BigReg) : BigReg :=
  { limbs := r.operand ++ x.limbs.drop r.len.toNat, len := r.len, sign := r.sign }

/-- Write operand register A with its length and sign. -/
def State.setA (s : State) (x : BigReg) : State := { s with a := x }

/-- Write operand register B with its length and sign. -/
def State.setB (s : State) (x : BigReg) : State := { s with b := x }

/-! ### Acceptance, refusal, completion (60_exceptions.md R602 to R604) -/

/-- raise BlockError(code): ERR, ERRCODE and DONE are written, nothing else changes (R603). -/
def State.refuse (s : State) (code : ErrCode) : State :=
  { s with err := true, errcode := code, done := true }

/-- A write dropped because the block is busy sets the sticky OVR (70_reset_and_hazards.md R710). -/
def State.drop (s : State) : State := { s with ovr := true }

/-- The last lines of R602: DONE, ERR and ERRCODE are cleared, and the command is in flight (BUSY = 1). -/
def State.accept (s : State) (i : Instr) : State :=
  { s with done := false, err := false, errcode := .none, inflight := some i }

/-- The end of the datapath's step: BUSY <- 0, DONE <- 1, inflight <- none; ERR stays 0 (R604). -/
def State.complete (s : State) : State :=
  { s with done := true, err := false, errcode := .none, inflight := none }

/-- The checks on a command that decoded, in the order of R602. The first is made by the decoder already (R309): no
word decodes to a shift amount above 15. -/
def acceptError (i : Instr) (s : State) : Option ErrCode :=
  if i.wf = false then some .badShamt
  else if i.readsA = true ∧ s.cfg.lmax < s.a.len.toNat then some .badLength
  else if i.readsB = true ∧ s.cfg.lmax < s.b.len.toNat then some .badLength
  else if i.movesR = true ∧ s.cfg.lmax < s.r.len.toNat then some .capacity
  else none

/-- A CMD write of word `w` (R602): dropped while busy, else refused or accepted. -/
def State.submit (s : State) (w : Word) : State :=
  if s.busy then s.drop
  else
    match decode w with
    | .refuse code => s.refuse code
    | .cmd i =>
      match acceptError i s with
      | some code => s.refuse code
      | none => s.accept i

/-- A command from its checks to its completion: refused, or its results written and completed (R602 to R604).
`effect` is the pseudocode of the command's own rule. An accepted command passes the checks again when the datapath
completes it, since nothing they read changes in between (70_reset_and_hazards.md R710). -/
def command (i : Instr) (effect : State → State) (s : State) : Host.Outcome State Fault Refusal :=
  match acceptError i s with
  | some code => .next (s.refuse code)
  | none => .next (effect s).complete

/-! ### Reset (70_reset_and_hazards.md R700 to R702) -/

/-- Every piece of the block's state at its value of R120; an in-flight command is abandoned (R702). The limb cells of
A, B and R are unspecified afterwards: new draws. -/
def State.toReset (s : State) : State :=
  { s with
    a := { limbs := drawLimbs s.draws s.cfg.lmax, len := 0, sign := false }
    b := { limbs := drawLimbs (s.draws + s.cfg.lmax) s.cfg.lmax, len := 0, sign := false }
    r := { limbs := drawLimbs (s.draws + 2 * s.cfg.lmax) s.cfg.rmax, len := 0, sign := false }
    shout := 0
    ie := false
    done := false
    err := false
    ovr := false
    cmp := .none
    errcode := .none
    inflight := none
    draws := s.draws + 4 * s.cfg.lmax }

/-- The reset input (R701): asserting it resets the block and holds it; on deassertion the state is that of R120. A
deassertion of an input that is not asserted changes nothing. -/
def State.setRst (s : State) (asserted : Bool) : State :=
  if asserted then { s.toReset with rst := true }
  else if s.rst then { s.toReset with rst := false }
  else s

end Sys2Proof.Machine
end

