-- ==== Sys2Proof/Machine/Bus.lean ====
section
/-! DEFINITION. The register window: its address map (20_memory.md R205), what a 32-bit read returns and what a 32-bit
write does (R202 to R213), idle and busy (70_reset_and_hazards.md R710 to R712), and the host's step (10_state.md
R118). -/

namespace Sys2Proof.Machine

open Sys2Proof

/-! ### The address map (R205) -/

/-- The registers of the window. A limb index may be past the end of its file: that offset is RAZ/WI (R210). -/
inductive RegName where
  | id
  | param
  | ctrl
  | cmd
  | status
  | lena
  | lenb
  | lenr
  | shout
  | limbA (i : Nat)
  | limbB (i : Nat)
  | limbR (i : Nat)
  | reserved
deriving DecidableEq, Repr

/-- The register an offset reaches: offset bits [19:2] are decoded, bits [1:0] ignored (R203, R205). -/
def decodeOffset (off : Offset) : RegName :=
  let index := off.toNat / 4 % 0x10000
  match off.toNat / 0x40000 with
  | 0 =>
    match index with
    | 0 => .id
    | 1 => .param
    | 2 => .ctrl
    | 3 => .cmd
    | 4 => .status
    | 5 => .lena
    | 6 => .lenb
    | 7 => .lenr
    | 8 => .shout
    | _ => .reserved
  | 1 => .limbA index
  | 2 => .limbB index
  | _ => .limbR index

/-- off(NAME): the byte offset of a register (R205, 30_encoding.md R311). Reserved offsets start at 0x00024. -/
def RegName.offset : RegName → Offset
  | .id => 0x00000
  | .param => 0x00004
  | .ctrl => 0x00008
  | .cmd => 0x0000C
  | .status => 0x00010
  | .lena => 0x00014
  | .lenb => 0x00018
  | .lenr => 0x0001C
  | .shout => 0x00020
  | .limbA i => BitVec.ofNat 20 (0x40000 + 4 * i)
  | .limbB i => BitVec.ofNat 20 (0x80000 + 4 * i)
  | .limbR i => BitVec.ofNat 20 (0xC0000 + 4 * i)
  | .reserved => 0x00024

/-- The offset in the window a host address reaches, none outside the window (00_scope.md R11, R200). -/
def windowOffset (cfg : Config) (addr : Nat) : Option Offset :=
  if cfg.base ≤ addr ∧ addr < cfg.base + 2 ^ 20 then some (BitVec.ofNat 20 (addr - cfg.base)) else none

/-! ### Register words -/

/-- A length register: [31] SIGN, [30:16] reserved, [15:0] LEN (10_state.md R102, R103, R105). -/
def BigReg.lenWord (x : BigReg) : Word := BitVec.ofBool x.sign ++ (0 : BitVec 15) ++ x.len

/-- PARAM: version 0x01, limb width 0x0F, LMAX (10_state.md R111). -/
def paramWord (cfg : Config) : Word := (0x01 : BitVec 8) ++ (0x0F : BitVec 8) ++ BitVec.ofNat 16 cfg.lmax

/-- A limb register: the limb in bits [14:0], zero above (R209); 0 past the end of the file (R210). -/
def limbWord (xs : List Limb) (size i : Nat) : Word := if i < size then (xs.getD i 0).setWidth 32 else 0

/-- The exact word of a register: what a read returns unless R712 leaves bits of it unspecified. -/
def State.regWord (s : State) : RegName → Word
  | .id => 0x4A534249
  | .param => paramWord s.cfg
  | .ctrl => (BitVec.ofBool s.ie).setWidth 32
  | .cmd => 0
  | .status => s.statusWord
  | .lena => s.a.lenWord
  | .lenb => s.b.lenWord
  | .lenr => s.r.lenWord
  | .shout => s.shout.setWidth 32
  | .limbA i => limbWord s.a.limbs s.cfg.lmax i
  | .limbB i => limbWord s.b.limbs s.cfg.lmax i
  | .limbR i => limbWord s.r.limbs s.cfg.rmax i
  | .reserved => 0

/-! ### Reads (R212, 70_reset_and_hazards.md R712) -/

/-- The bits of a length register that hold a field: SIGN and LEN. -/
def lenMask : Word := 0x8000FFFF

/-- The bits of a limb register, or of SHOUT, that hold a field. -/
def limbMask : Word := 0x00007FFF

/-- STATUS.CMP, N and Z. -/
def flagMask : Word := 0x000000F0

/-- The bits of a register that are unspecified when read while command `i` is in flight: the fields `i` writes
(R712). Reserved bits still read 0 (10_state.md R121). -/
def pendingMask (i : Instr) (cfg : Config) : RegName → Word
  | .limbR k => if i.writesR = true ∧ k < cfg.rmax then limbMask else 0
  | .lenr => if i.writesR = true then lenMask else 0
  | .status => if i.writesR = true then flagMask else 0
  | .shout => match i with
    | .shr _ => limbMask
    | .nop | .addm | .subm | .add | .sub | .mul | .and | .or | .xor | .shl _ | .neg | .copy | .movra | .movrb => 0
  | .limbA k => if i = .movra ∧ k < cfg.lmax then limbMask else 0
  | .lena => if i = .movra then lenMask else 0
  | .limbB k => if i = .movrb ∧ k < cfg.lmax then limbMask else 0
  | .lenb => if i = .movrb then lenMask else 0
  | .id | .param | .ctrl | .cmd | .reserved => 0

/-- The unspecified bits of a register as things stand: none while the block is idle. -/
def State.unspecified (s : State) (reg : RegName) : Word :=
  match s.inflight with
  | none => 0
  | some i => pendingMask i s.cfg reg

/-- MemRead: the register's word, its unspecified bits (if any) from a fresh draw. No other state changes (R212). -/
def State.busRead (s : State) (off : Offset) : State :=
  let reg := decodeOffset off
  let m := s.unspecified reg
  if m = 0 then { s with rdata := s.regWord reg }
  else
    { s with
      rdata := (s.regWord reg &&& ~~~m) ||| (Config.freeWord s.draws &&& m)
      draws := s.draws + 1 }

/-! ### Writes (R202, R206 to R213, 70_reset_and_hazards.md R710, R711) -/

/-- A CTRL write: SRST = 1 resets the block, whatever bit 0 holds; else IE takes bit 0 (10_state.md R107). -/
def State.writeCtrl (s : State) (v : Word) : State :=
  if v[1] then s.toReset else { s with ie := v[0] }

/-- A STATUS write: each of DONE, ERR and OVR written as 1 is cleared; clearing ERR clears ERRCODE (10_state.md R108). -/
def State.writeStatus (s : State) (v : Word) : State :=
  { s with
    done := s.done && !v[1]
    err := s.err && !v[2]
    errcode := if v[2] then .none else s.errcode
    ovr := s.ovr && !v[3] }

/-- A length register written: LEN takes bits [15:0] whatever their value, SIGN bit 31 (10_state.md R102). -/
def BigReg.writeLen (x : BigReg) (v : Word) : BigReg :=
  { x with len := v.extractLsb' 0 16, sign := v[31] }

/-- Limb i written: bits [14:0] stored (R209); no effect past the end of the file (R210). -/
def BigReg.writeLimb (x : BigReg) (size i : Nat) (v : Word) : BigReg :=
  if i < size then { x with limbs := x.limbs.set i (v.extractLsb' 0 15) } else x

/-- MemWrite of a register: dropped with OVR while busy for CMD, LENA, LENB and the A and B windows (R710); read-only
and reserved registers ignore it. -/
def State.writeReg (s : State) (v : Word) : RegName → State
  | .ctrl => s.writeCtrl v
  | .status => s.writeStatus v
  | .cmd => s.submit v
  | .lena => if s.busy then s.drop else s.setA (s.a.writeLen v)
  | .lenb => if s.busy then s.drop else s.setB (s.b.writeLen v)
  | .limbA i => if s.busy then s.drop else s.setA (s.a.writeLimb s.cfg.lmax i v)
  | .limbB i => if s.busy then s.drop else s.setB (s.b.writeLimb s.cfg.lmax i v)
  | .id | .param | .lenr | .shout | .limbR _ | .reserved => s

/-- MemWrite at an offset (R203). -/
def State.busWrite (s : State) (off : Offset) (v : Word) : State := s.writeReg v (decodeOffset off)

/-! ### The host's step (10_state.md R118) -/

/-- One access of the host or the platform. -/
def hostStep (x : Access) (s : State) : Host.Outcome State Fault Refusal :=
  match x with
  | .idle => .next s
  | .rst asserted => .next (s.setRst asserted)
  | .narrow _ => .refused .narrowAccess
  | .read addr =>
    match windowOffset s.cfg addr with
    | none => .refused .outsideWindow
    | some off => if s.rst then .fault .accessDuringReset else .next (s.busRead off)
  | .write addr v =>
    match windowOffset s.cfg addr with
    | none => .refused .outsideWindow
    | some off => if s.rst then .fault .accessDuringReset else .next (s.busWrite off v)

end Sys2Proof.Machine
end

