-- ==== Sys2Proof/Machine/Arith.lean ====
section
/-! DEFINITION. The arithmetic family (40_arithmetic.md): ADDM, SUBM, ADD, SUB, MUL. -/

namespace Sys2Proof.Machine

open Sys2Proof

/-- The larger magnitude minus the smaller, by the outcome of CmpMag; equal magnitudes give 0 (R411). -/
def diffMag (c : Ordering) (xs ys : List Limb) : Nat :=
  match c with
  | .eq => 0
  | .gt => subMag xs ys
  | .lt => subMag ys xs

/-- The sign dispatch of signed addition (R412): magnitude and sign of the sum of A with effective sign `sa` and B with
effective sign `sb`. -/
def signedSum (xs ys : List Limb) (sa sb : Bool) : Nat × Bool :=
  if sa = sb then (addMag xs ys, sa)
  else
    match cmpMag xs ys with
    | .eq => (0, false)
    | .gt => (subMag xs ys, sa)
    | .lt => (subMag ys xs, sb)

/-- ADDM: R <- |A| + |B| (R410). -/
def execAddm (s : State) : Host.Outcome State Fault Refusal :=
  command .addm
    (fun s => (s.finish (addMag s.a.operand s.b.operand) false).setCmp
      (.ofOrdering (cmpMag s.a.operand s.b.operand))) s

/-- SUBM: R <- the larger magnitude minus the smaller (R411). -/
def execSubm (s : State) : Host.Outcome State Fault Refusal :=
  command .subm
    (fun s =>
      let c := cmpMag s.a.operand s.b.operand
      (s.finish (diffMag c s.a.operand s.b.operand) false).setCmp (.ofOrdering c)) s

/-- ADD: R <- A + B, signed (R412). -/
def execAdd (s : State) : Host.Outcome State Fault Refusal :=
  command .add
    (fun s =>
      let sum := signedSum s.a.operand s.b.operand s.a.effSign s.b.effSign
      (s.finish sum.1 sum.2).setCmp (.ofOrdering (cmpMag s.a.operand s.b.operand))) s

/-- SUB: R <- A - B: ADD with the sign of negate(B), which stays 0 for a zero B (R413). -/
def execSub (s : State) : Host.Outcome State Fault Refusal :=
  command .sub
    (fun s =>
      let negB := decide (s.b.value ≠ 0) && !s.b.effSign
      let sum := signedSum s.a.operand s.b.operand s.a.effSign negB
      (s.finish sum.1 sum.2).setCmp (.ofOrdering (cmpMag s.a.operand s.b.operand))) s

/-- MUL: R <- A * B; the sign is the XOR of the effective signs (R414). -/
def execMul (s : State) : Host.Outcome State Fault Refusal :=
  command .mul
    (fun s => (s.finish (mulMag s.a.operand s.b.operand) (s.a.effSign ^^ s.b.effSign)).setCmp .none) s

end Sys2Proof.Machine
end

