-- ==== Sys2Proof/Machine/Bitwise.lean ====
section
/-! DEFINITION. The bitwise family (41_bitwise.md): AND, OR, XOR, lane by lane on magnitudes; the result sign is the
effective sign of A (R452). -/

namespace Sys2Proof.Machine

open Sys2Proof

/-- The common part of R460 to R462: Finish of the combined lanes with sign es_A, and CMP <- NONE. -/
def State.finishLanes (s : State) (f : Limb → Limb → Limb) : State :=
  (s.finish (limbsVal (mapLanes f s.a.operand s.b.operand)) s.a.effSign).setCmp .none

/-- AND (R460). -/
def execAnd (s : State) : Host.Outcome State Fault Refusal :=
  command .and (fun s => s.finishLanes (· &&& ·)) s

/-- OR (R461). -/
def execOr (s : State) : Host.Outcome State Fault Refusal :=
  command .or (fun s => s.finishLanes (· ||| ·)) s

/-- XOR (R462). -/
def execXor (s : State) : Host.Outcome State Fault Refusal :=
  command .xor (fun s => s.finishLanes (· ^^^ ·)) s

end Sys2Proof.Machine
end

