-- ==== Sys2Proof/Machine/Shift.lean ====
section
/-! DEFINITION. The shift family (42_shift.md): SHL and SHR by 0 to 15 bits. -/

namespace Sys2Proof.Machine

open Sys2Proof

/-- SHL: R <- |A| * 2^n with sign es_A (R510). -/
def execShl (n : BitVec 8) (s : State) : Host.Outcome State Fault Refusal :=
  command (.shl n)
    (fun s => (s.finish (limbsVal (shlLimbs n.toNat s.a.operand)) s.a.effSign).setCmp .none) s

/-- SHR: R <- |A| shifted right by n with sign es_A; SHOUT <- the bits shifted out (R511). -/
def execShr (n : BitVec 8) (s : State) : Host.Outcome State Fault Refusal :=
  command (.shr n)
    (fun s => ((s.finish (limbsVal (shrLimbs n.toNat s.a.operand)) s.a.effSign).setShout
      (shrOut n.toNat s.a.operand)).setCmp .none) s

end Sys2Proof.Machine
end

