-- ==== Sys2Proof/Machine/Transfer.lean ====
section
/-! DEFINITION. The transfer and control family (43_transfer.md): NOP, NEG, COPY, MOVRA, MOVRB. -/

namespace Sys2Proof.Machine

open Sys2Proof

/-- NOP: only STATUS is written, by acceptance and completion (R550). -/
def execNop (s : State) : Host.Outcome State Fault Refusal :=
  command .nop (fun s => s) s

/-- NEG: R <- -A; negating zero gives +0 (R551). -/
def execNeg (s : State) : Host.Outcome State Fault Refusal :=
  command .neg
    (fun s => (s.finish s.a.value (decide (s.a.value ≠ 0) && !s.a.effSign)).setCmp .none) s

/-- COPY: R <- A, normalized (R552). -/
def execCopy (s : State) : Host.Outcome State Fault Refusal :=
  command .copy (fun s => (s.finish s.a.value s.a.effSign).setCmp .none) s

/-- MOVRA: A, LENA <- R, LENR; the limbs of A at and above LEN_R keep their values (R556). -/
def execMovra (s : State) : Host.Outcome State Fault Refusal :=
  command .movra (fun s => s.setA (s.a.moveFrom s.r)) s

/-- MOVRB: B, LENB <- R, LENR (R557). -/
def execMovrb (s : State) : Host.Outcome State Fault Refusal :=
  command .movrb (fun s => s.setB (s.b.moveFrom s.r)) s

end Sys2Proof.Machine
end

