-- ==== Sys2Proof/Machine/Dispatch.lean ====
section
/-! DEFINITION. The meaning of each command: its checks, its results and its completion (60_exceptions.md R602 to R604). -/

namespace Sys2Proof.Machine

open Sys2Proof

def exec (i : Instr) (s : State) : Host.Outcome State Fault Refusal :=
  match i with
  | .nop => Sys2Proof.Machine.execNop s
  | .addm => Sys2Proof.Machine.execAddm s
  | .subm => Sys2Proof.Machine.execSubm s
  | .add => Sys2Proof.Machine.execAdd s
  | .sub => Sys2Proof.Machine.execSub s
  | .mul => Sys2Proof.Machine.execMul s
  | .and => Sys2Proof.Machine.execAnd s
  | .or => Sys2Proof.Machine.execOr s
  | .xor => Sys2Proof.Machine.execXor s
  | .shl n => Sys2Proof.Machine.execShl n s
  | .shr n => Sys2Proof.Machine.execShr n s
  | .neg => Sys2Proof.Machine.execNeg s
  | .copy => Sys2Proof.Machine.execCopy s
  | .movra => Sys2Proof.Machine.execMovra s
  | .movrb => Sys2Proof.Machine.execMovrb s

end Sys2Proof.Machine
end

