-- ==== Sys2Proof/Machine/Datapath.lean ====
section
/-! DEFINITION. The datapath's step (10_state.md R118, 60_exceptions.md R604) and one turn of the schedule (R607). -/

namespace Sys2Proof.Machine

open Sys2Proof

/-- The datapath's step: it completes the in-flight command, and has nothing to do while the block is idle (R118,
R604, R616). -/
def datapathStep (s : State) : Host.Outcome State Fault Refusal :=
  match s.inflight with
  | none => .next s
  | some i => exec i s

/-- One turn: the access, then the datapath's step if the schedule has it step before the next access (R607, R713). -/
def takeTurn (t : Turn) (s : State) : Host.Outcome State Fault Refusal :=
  match hostStep t.access s with
  | .next s' => if t.datapath then datapathStep s' else .next s'
  | .fault e => .fault e
  | .refused e => .refused e

end Sys2Proof.Machine
end

