-- ==== Sys2Proof/Machine/Step.lean ====
section
/-! DEFINITION. One step of the machine: the next turn of the schedule. When no turn is left only the datapath can move,
so a command in flight completes (70_reset_and_hazards.md R713, weak fairness) and an idle block stays as it is
(60_exceptions.md R616). -/

namespace Sys2Proof.Machine

open Sys2Proof

def step (s : State) : Host.Outcome State Fault Refusal :=
  match s.inputs with
  | [] => datapathStep s
  | t :: rest => takeTurn t { s with inputs := rest }

/-- `s` with the command word `w` (its bits above `nbits` zero) as the host's next access, a write to CMD, completed by
the datapath before the next access (zero latency, R713). A command reaches an idle block that is not held in reset. -/
def State.withFetchWord (s : State) (nbits w : Nat) : State :=
  { s with
    inputs := { access := .write (s.cfg.base + 0x0C) (BitVec.ofNat 32 (w % 2 ^ nbits)), datapath := true } :: s.inputs
    inflight := none
    rst := false }

end Sys2Proof.Machine
end

