-- ==== Sys2Proof/Safety.lean ====
section
/-! DEFINITION. What claims are made in terms of: a state whose limb files have their sizes, a canonical result, the
invariant every step keeps, and inputs that no step stops on. -/

namespace Sys2Proof.Machine

open Sys2Proof

/-- The cells the address map gives exist, and no others: LMAX limbs in A and in B, RMAX in R (10_state.md R100,
20_memory.md R205). This block has no other memory. -/
abbrev Memory.wf (s : State) : Prop :=
  s.a.limbs.length = s.cfg.lmax ∧ s.b.limbs.length = s.cfg.lmax ∧ s.r.limbs.length = s.cfg.rmax

/-- Legal parameters and limb files of the right sizes: what every statement about a command assumes of the state. -/
abbrev State.Ready (s : State) : Prop := s.cfg.wf = true ∧ Memory.wf s

/-- Normalized and canonical: no leading zero limb, and no negative zero (10_state.md R114). -/
abbrev BigReg.Canonical (x : BigReg) : Prop := x.len.toNat = nlen x.value ∧ (x.value = 0 → x.sign = false)

/-- The state of the block after a command completed: idle, DONE set, no error (60_exceptions.md R604). -/
abbrev State.Completed (s : State) : Prop :=
  s.inflight = none ∧ s.done = true ∧ s.err = false ∧ s.errcode = .none

/-- What a command that wrote R leaves: completed, R holding the magnitude `m` in exactly nlen(m) limbs with sign `sg`
(forced 0 on zero), CMP as given, and Z and N its live views (10_state.md R108, R114, R117). -/
abbrev State.HasResult (t : State) (m : Nat) (sg : Bool) (c : Cmp) : Prop :=
  t.Completed ∧ t.r.value = m ∧ t.r.len.toNat = nlen m ∧ (∀ k < nlen m, t.r.limbs.getD k 0 = limbOf m k) ∧
    t.r.sign = (sg && decide (m ≠ 0)) ∧ t.cmp = c ∧ t.zFlag = decide (m = 0) ∧ t.nFlag = t.r.sign

/-- The values of R120's table: lengths, signs, SHOUT, CTRL and STATUS at their reset values, the block idle, irq low.
The limb cells are unspecified there, so it says nothing about them but that they exist. -/
abbrev State.HasResetValues (t : State) : Prop :=
  t.a.len = 0 ∧ t.a.sign = false ∧ t.b.len = 0 ∧ t.b.sign = false ∧ t.r.len = 0 ∧ t.r.sign = false ∧
    t.shout = 0 ∧ t.ie = false ∧ t.statusWord = 0x00000010 ∧ t.inflight = none ∧ t.irq = false ∧ Memory.wf t

/-- `w` is the only legal command word with its opcode: a CMD write of any other word with that opcode to an idle block
is refused with BAD_OPCODE (30_encoding.md R303 to R306). -/
def OnlyLegalWord (w : Word) : Prop :=
  ∀ (s : State) (v : Word), s.inflight = none → v.toNat % 32 = w.toNat % 32 → v ≠ w →
    s.busWrite 0x0000C v = { s with err := true, errcode := .badOpcode, done := true }

/-- While a command is in flight it has passed every check, and DONE and ERR are 0 (60_exceptions.md R602, R606). -/
def State.inflightOk (s : State) : Bool :=
  match s.inflight with
  | none => true
  | some i => decide (acceptError i s = none) && !s.done && !s.err

/-- The invariant of the block: legal parameters; limb files of their sizes; R canonical and no longer than RMAX (R105,
R114); an in-flight command that has passed its checks; an error code exactly while ERR is set (R108); nothing in
flight while reset is asserted. -/
abbrev State.Inv (s : State) : Prop :=
  s.Ready ∧ s.r.Canonical ∧ s.r.len.toNat ≤ s.cfg.rmax ∧ s.inflightOk = true ∧
    (s.err = true ↔ s.errcode ≠ .none) ∧ (s.rst = true → s.inflight = none)

/-- The accesses the model gives a meaning when the reset input is at level `rst`: 32-bit accesses in the window while
reset is not asserted, and the platform's events (20_memory.md R202, 70_reset_and_hazards.md R701). -/
def Access.legal (cfg : Config) (rst : Bool) : Access → Bool
  | .idle | .rst _ => true
  | .narrow _ => false
  | .read addr | .write addr _ => (windowOffset cfg addr).isSome && !rst

/-- The level of the reset input after an access. -/
def Access.rstAfter (rst : Bool) : Access → Bool
  | .rst asserted => asserted
  | .idle | .narrow _ | .read _ | .write _ _ => rst

/-- A schedule none of whose turns the model stops on. -/
def legalInputs (cfg : Config) : Bool → List Turn → Bool
  | _, [] => true
  | rst, t :: rest => t.access.legal cfg rst && legalInputs cfg (t.access.rstAfter rst) rest

end Sys2Proof.Machine
end

