-- ==== Sys2Proof/Certificates/Slice0/Obligations.lean ====
section
/-! DEFINITION. The statements for the provers, from the numbered rules of spec/. -/

open Sys2Proof Sys2Proof.Machine

/-! ### Encoding and decoding (30_encoding.md) -/

/-- The words of R303's opcode map, each written out from OP and SHAMT, and the edge words of R304 to R307. -/
def Obligations.SpecWordsDecodeToTheirCommands : Prop :=
  decode 0x00000000 = .cmd .nop ∧ decode 0x00000001 = .cmd .addm ∧ decode 0x00000002 = .cmd .subm ∧
  decode 0x00000003 = .cmd .add ∧ decode 0x00000004 = .cmd .sub ∧ decode 0x00000005 = .cmd .mul ∧
  decode 0x00000006 = .cmd .and ∧ decode 0x00000007 = .cmd .or ∧ decode 0x00000008 = .cmd .xor ∧
  decode 0x00000009 = .cmd (.shl 0) ∧ decode 0x00000F09 = .cmd (.shl 15) ∧ decode 0x0000010A = .cmd (.shr 1) ∧
  decode 0x0000000B = .cmd .neg ∧ decode 0x0000000C = .cmd .copy ∧ decode 0x0000000D = .cmd .movra ∧
  decode 0x0000000E = .cmd .movrb ∧ decode 0x0000000F = .refuse .badOpcode ∧
  decode 0x0000100A = .refuse .badShamt ∧ decode 0x0000103A = .refuse .badOpcode

/-- R300, R303: a word decodes to a command exactly when the command is well formed and the word is its encoding. -/
def Obligations.DecodeInvertsEncode : Prop :=
  ∀ (w : Word) (i : Instr), decode w = .cmd i ↔ i.wf = true ∧ encode i = w

/-- R309: every word is a legal command or refused with BAD_OPCODE or BAD_SHAMT, by its fields OP = w[4:0],
RSV0 = w[7:5], SHAMT = w[15:8] and RSV1 = w[31:16] alone. -/
def Obligations.DecodingPartitionsTheWords : Prop :=
  ∀ w : Word,
    let op := w.toNat % 32
    let rsv0 := w.toNat / 32 % 8
    let n := w.toNat / 256 % 256
    let rsv1 := w.toNat / 65536
    (decode w = .refuse .badOpcode ↔ rsv1 ≠ 0 ∨ rsv0 ≠ 0 ∨ 0x0F ≤ op ∨ (op ≠ 0x09 ∧ op ≠ 0x0A ∧ n ≠ 0)) ∧
    (decode w = .refuse .badShamt ↔ rsv1 = 0 ∧ rsv0 = 0 ∧ (op = 0x09 ∨ op = 0x0A) ∧ 15 < n) ∧
    (decode w = .refuse .badOpcode ∨ decode w = .refuse .badShamt ∨
      ∃ i : Instr, decode w = .cmd i ∧ i.opcode.toNat = op ∧ i.shamt.toNat = n)

/-- R304 to R307: an illegal word written to CMD of an idle block changes DONE, ERR and ERRCODE and nothing else. -/
def Obligations.IllegalWordsChangeOnlyStatus : Prop :=
  ∀ (s : State) (w : Word), s.inflight = none →
    let op := w.toNat % 32
    let rsv0 := w.toNat / 32 % 8
    let n := w.toNat / 256 % 256
    let rsv1 := w.toNat / 65536
    (rsv1 ≠ 0 ∨ rsv0 ≠ 0 ∨ 0x0F ≤ op ∨ (op ≠ 0x09 ∧ op ≠ 0x0A ∧ n ≠ 0) →
      s.busWrite 0x0000C w = { s with err := true, errcode := .badOpcode, done := true }) ∧
    (rsv1 = 0 → rsv0 = 0 → op = 0x09 ∨ op = 0x0A → 15 < n →
      s.busWrite 0x0000C w = { s with err := true, errcode := .badShamt, done := true })

/-! ### Acceptance, the step, the schedule (60_exceptions.md R602 to R607, 70_reset_and_hazards.md R713) -/

/-- R602: what a write of a command word to CMD does, in the order of its checks. Opcodes 0x01 to 0x0C read A, 0x01 to
0x08 read B, 0x0D and 0x0E move R (R303, R601). -/
def Obligations.CmdWriteFollowsTheAcceptanceOrder : Prop :=
  ∀ (s : State) (w : Word),
    (s.inflight ≠ none → s.busWrite 0x0000C w = { s with ovr := true }) ∧
    (s.inflight = none →
      (∀ code, decode w = .refuse code →
        s.busWrite 0x0000C w = { s with err := true, errcode := code, done := true }) ∧
      (∀ i, decode w = .cmd i →
        let op := i.opcode.toNat
        let badA := 0x01 ≤ op ∧ op ≤ 0x0C ∧ s.cfg.lmax < s.a.len.toNat
        let badB := 0x01 ≤ op ∧ op ≤ 0x08 ∧ s.cfg.lmax < s.b.len.toNat
        let badR := (op = 0x0D ∨ op = 0x0E) ∧ s.cfg.lmax < s.r.len.toNat
        (badA ∨ badB → s.busWrite 0x0000C w = { s with err := true, errcode := .badLength, done := true }) ∧
        (badR → s.busWrite 0x0000C w = { s with err := true, errcode := .capacity, done := true }) ∧
        (¬badA → ¬badB → ¬badR →
          s.busWrite 0x0000C w =
            { s with done := false, err := false, errcode := .none, inflight := some i })))

/-- A turn that writes a legal word to CMD of an idle block, with the datapath stepping before the next access, is exec
of the decoded command; a turn in which only the datapath steps, and a step with no turn left, is exec of the in-flight
command; and withFetchWord places exactly one such write. Completion in the step of the access, and
the turns themselves, are the model's choice (log 1, 2, 16). -/
def Obligations.StepRunsTheDecodedCommand : Prop :=
  (∀ (s : State) (w : Word) (rest : List Turn) (i : Instr),
    s.inputs = ⟨.write (s.cfg.base + 0x0C) w, true⟩ :: rest → s.rst = false → s.inflight = none →
    decode w = .cmd i → step s = exec i { s with inputs := rest }) ∧
  (∀ (s : State) (rest : List Turn) (i : Instr), s.inflight = some i →
    (s.inputs = [] → step s = exec i s) ∧
    (s.inputs = ⟨.idle, true⟩ :: rest → step s = exec i { s with inputs := rest })) ∧
  (∀ (s : State) (w : Nat) (i : Instr), w < 2 ^ 32 → decode (BitVec.ofNat 32 w) = .cmd i →
    step (s.withFetchWord 32 w) = exec i { s with inflight := none, rst := false })

/-- R713: how long a command takes does not change what it does. Written to CMD with the datapath stepping at once, or
after `k` turns in which it does not, the block ends in the same state. -/
def Obligations.CompletionDelayDoesNotMatter : Prop :=
  ∀ (s : State) (w : Word) (k : Nat) (rest : List Turn), s.rst = false → s.inflight = none →
    Sys2Proof.core.run 1 { s with inputs := ⟨.write (s.cfg.base + 0x0C) w, true⟩ :: rest } =
      Sys2Proof.core.run (k + 2)
        { s with inputs := ⟨.write (s.cfg.base + 0x0C) w, false⟩ ::
                   (List.replicate k ⟨.idle, false⟩ ++ ⟨.idle, true⟩ :: rest) }

/-- R604, R713: an accepted command always completes. Whatever legal accesses the host makes, and whenever the
datapath steps, the run answers a state at the end of the schedule and the block is idle one step later at the latest.
That the datapath steps once no turn is left is the model's form of weak fairness (log 1). For a schedule that ends
with the reset input asserted, that nothing is in flight then is the model's choice (log 13). -/
def Obligations.BusyEndsWithTheSchedule : Prop :=
  ∀ s : State, s.Inv → legalInputs s.cfg s.rst s.inputs = true →
    ∃ t : State, Sys2Proof.core.run (s.inputs.length + 1) s = .next t ∧ t.inflight = none ∧ t.inputs = []

/-- Every step keeps the invariant: limb files of their sizes, R canonical and within RMAX, an in-flight command that
has passed its checks with DONE and ERR clear, ERRCODE nonzero exactly while ERR is set. That nothing is in flight,
and R is canonical, while the reset input is asserted is the model's choice (log 13): the block's state is undefined
then (R701). -/
def Obligations.StepKeepsTheInvariant : Prop :=
  ∀ s t : State, s.Inv → step s = .next t → t.Inv

/-- The state after a hardware reset, with any legal LMAX and BASE, meets the invariant. LMAX = 64 and BASE = 0
in State.reset are the model's choice (log 3, 4). -/
def Obligations.ResetMeetsTheInvariant : Prop :=
  State.reset.Inv ∧ ∀ cfg : Config, cfg.wf = true → (State.resetWith cfg).Inv

/-- The model stops only on an access it names: narrower than 32 bits, outside the window, or while reset is asserted.
The names are the model's choice (log 4, 13, 14). -/
def Obligations.StepStopsOnlyOnIllegalAccesses : Prop :=
  ∀ s : State,
    (s.inputs = [] → ∃ t, step s = .next t) ∧
    ∀ (u : Turn) (rest : List Turn), s.inputs = u :: rest →
      ((∃ t, step s = .next t) ↔ u.access.legal s.cfg s.rst = true)

/-- R701: an access to the window while the reset input is asserted has no step. The fault is the model's form of
'stuck' (log 13). -/
def Obligations.AccessDuringResetIsStuck : Prop :=
  ∀ (s : State) (addr : Nat) (v : Word) (d : Bool) (rest : List Turn), s.rst = true →
    s.cfg.base ≤ addr → addr < s.cfg.base + 2 ^ 20 →
    (s.inputs = ⟨.read addr, d⟩ :: rest → step s = .fault .accessDuringReset) ∧
    (s.inputs = ⟨.write addr v, d⟩ :: rest → step s = .fault .accessDuringReset)

/-! ### The datapath's limb-by-limb computations (40_arithmetic.md, 41_bitwise.md, 42_shift.md) -/

/-- R402: the carry-propagate adder returns val(X) + val(Y) for operands of any two lengths. -/
def Obligations.AdderComputesTheSum : Prop :=
  ∀ xs ys : List Limb, addMag xs ys = limbsVal xs + limbsVal ys

/-- R403: applied when val(X) >= val(Y), the borrow-propagate subtractor returns val(X) - val(Y). -/
def Obligations.SubtractorComputesTheDifference : Prop :=
  ∀ xs ys : List Limb, limbsVal ys ≤ limbsVal xs → subMag xs ys = limbsVal xs - limbsVal ys

/-- R404: the partial-product multiplier returns val(X) * val(Y). In a row that enters with a carry below 2^15 (the
first is 0) every intermediate t fits in 30 bits, its low 15 bits go to the accumulator and its carry, again below
2^15, goes to the next limb, so that the row adds x * val(Y) to the accumulator and loses nothing. -/
def Obligations.MultiplierComputesTheProduct : Prop :=
  (∀ xs ys : List Limb, mulMag xs ys = limbsVal xs * limbsVal ys) ∧
  (∀ (x y p : Limb) (c : Nat) (rest : List (Limb × Limb)), c < limbBase →
    let t := x.toNat * y.toNat + p.toNat + c
    mulRow x c ((y, p) :: rest) = BitVec.ofNat limbWidth t :: mulRow x (t / limbBase) rest ∧
      t ≤ 2 ^ 30 - 1 ∧ t / limbBase < limbBase) ∧
  (∀ (x : Limb) (c : Nat) (row : List (Limb × Limb)), c < limbBase →
    limbsVal (mulRow x c row) = x.toNat * limbsVal (row.map (·.1)) + limbsVal (row.map (·.2)) + c)

/-- R401: comparing normalized lengths and then limbs from the most significant compares the values. -/
def Obligations.ComparatorComparesTheValues : Prop :=
  ∀ xs ys : List Limb, cmpMag xs ys = compare (limbsVal xs) (limbsVal ys)

/-- R450, R453: the lanes combined one by one, missing limbs read as 0, are the bitwise operation on the values. -/
def Obligations.BitwiseLanesCombineTheValues : Prop :=
  ∀ xs ys : List Limb,
    limbsVal (mapLanes (· &&& ·) xs ys) = limbsVal xs &&& limbsVal ys ∧
    limbsVal (mapLanes (· ||| ·) xs ys) = limbsVal xs ||| limbsVal ys ∧
    limbsVal (mapLanes (· ^^^ ·) xs ys) = limbsVal xs ^^^ limbsVal ys

/-- R501: the left shifter's lanes hold val_A * 2^n. -/
def Obligations.LeftShiftLanesMultiply : Prop :=
  ∀ (n : Nat) (xs : List Limb), n ≤ 15 → limbsVal (shlLimbs n xs) = limbsVal xs * 2 ^ n

/-- R502: the right shifter's lanes hold floor(val_A / 2^n), and OUT is val_A mod 2^n. -/
def Obligations.RightShiftLanesDivide : Prop :=
  ∀ (n : Nat) (xs : List Limb), n ≤ 15 →
    limbsVal (shrLimbs n xs) = limbsVal xs / 2 ^ n ∧ (shrOut n xs).toNat = limbsVal xs % 2 ^ n

/-- R405, R504, R460 to R462: how many limbs each result has (ADDM to MUL, the shifts, AND, OR and XOR, and NEG and
COPY, whose magnitude is A's), so that with LMAX >= 1 every result fits R. -/
def Obligations.ResultsFitTheResultRegister : Prop :=
  ∀ (xs ys : List Limb) (n : Nat),
    nlen (addMag xs ys) ≤ max xs.length ys.length + 1 ∧ nlen (subMag xs ys) ≤ max xs.length ys.length ∧
    nlen (mulMag xs ys) ≤ xs.length + ys.length ∧ nlen (limbsVal (shlLimbs n xs)) ≤ xs.length + 1 ∧
    nlen (limbsVal (shrLimbs n xs)) ≤ xs.length ∧
    (∀ f : Limb → Limb → Limb, nlen (limbsVal (mapLanes f xs ys)) ≤ max xs.length ys.length) ∧
    nlen (limbsVal (mapLanes (· &&& ·) xs ys)) ≤ min xs.length ys.length ∧ nlen (limbsVal xs) ≤ xs.length ∧
    ∀ cfg : Config, cfg.wf = true → xs.length ≤ cfg.lmax → ys.length ≤ cfg.lmax →
      max xs.length ys.length + 1 ≤ cfg.rmax ∧ xs.length + ys.length ≤ cfg.rmax

/-! ### The commands: encoding, result, flags, refusals -/

/-- R410. -/
def Obligations.AddmAddsTheMagnitudes : Prop :=
  encode .addm = 0x00000001 ∧ OnlyLegalWord 0x00000001 ∧
  ∀ s : State, s.Ready →
    (s.a.len.toNat ≤ s.cfg.lmax → s.b.len.toNat ≤ s.cfg.lmax →
      ∃ t, exec .addm s = .next t ∧
        t.HasResult (s.a.value + s.b.value) false (.ofOrdering (compare s.a.value s.b.value))) ∧
    (s.cfg.lmax < s.a.len.toNat ∨ s.cfg.lmax < s.b.len.toNat →
      exec .addm s = .next { s with err := true, errcode := .badLength, done := true })

/-- R411. -/
def Obligations.SubmSubtractsTheSmallerMagnitude : Prop :=
  encode .subm = 0x00000002 ∧ OnlyLegalWord 0x00000002 ∧
  ∀ s : State, s.Ready →
    (s.a.len.toNat ≤ s.cfg.lmax → s.b.len.toNat ≤ s.cfg.lmax →
      ∃ t, exec .subm s = .next t ∧
        t.HasResult ((s.a.value : Int) - s.b.value).natAbs false (.ofOrdering (compare s.a.value s.b.value))) ∧
    (s.cfg.lmax < s.a.len.toNat ∨ s.cfg.lmax < s.b.len.toNat →
      exec .subm s = .next { s with err := true, errcode := .badLength, done := true })

/-- R412, R421: ADD computes exactly a + b over the integers. -/
def Obligations.AddAddsTheSignedValues : Prop :=
  encode .add = 0x00000003 ∧ OnlyLegalWord 0x00000003 ∧
  ∀ s : State, s.Ready →
    (s.a.len.toNat ≤ s.cfg.lmax → s.b.len.toNat ≤ s.cfg.lmax →
      ∃ t, exec .add s = .next t ∧ t.r.signed = s.a.signed + s.b.signed ∧
        t.HasResult (s.a.signed + s.b.signed).natAbs (decide (s.a.signed + s.b.signed < 0))
          (.ofOrdering (compare s.a.value s.b.value))) ∧
    (s.cfg.lmax < s.a.len.toNat ∨ s.cfg.lmax < s.b.len.toNat →
      exec .add s = .next { s with err := true, errcode := .badLength, done := true })

/-- R413, R421: SUB computes exactly a - b over the integers, and B keeps its limbs and sign. -/
def Obligations.SubSubtractsTheSignedValues : Prop :=
  encode .sub = 0x00000004 ∧ OnlyLegalWord 0x00000004 ∧
  ∀ s : State, s.Ready →
    (s.a.len.toNat ≤ s.cfg.lmax → s.b.len.toNat ≤ s.cfg.lmax →
      ∃ t, exec .sub s = .next t ∧ t.r.signed = s.a.signed - s.b.signed ∧ t.b = s.b ∧
        t.HasResult (s.a.signed - s.b.signed).natAbs (decide (s.a.signed - s.b.signed < 0))
          (.ofOrdering (compare s.a.value s.b.value))) ∧
    (s.cfg.lmax < s.a.len.toNat ∨ s.cfg.lmax < s.b.len.toNat →
      exec .sub s = .next { s with err := true, errcode := .badLength, done := true })

/-- R414, R421: MUL computes exactly a * b over the integers. -/
def Obligations.MulMultipliesTheSignedValues : Prop :=
  encode .mul = 0x00000005 ∧ OnlyLegalWord 0x00000005 ∧
  ∀ s : State, s.Ready →
    (s.a.len.toNat ≤ s.cfg.lmax → s.b.len.toNat ≤ s.cfg.lmax →
      ∃ t, exec .mul s = .next t ∧ t.r.signed = s.a.signed * s.b.signed ∧
        t.HasResult (s.a.value * s.b.value) (decide (s.a.signed * s.b.signed < 0)) .none) ∧
    (s.cfg.lmax < s.a.len.toNat ∨ s.cfg.lmax < s.b.len.toNat →
      exec .mul s = .next { s with err := true, errcode := .badLength, done := true })

/-- R460, R452: the sign is that of a nonzero A. -/
def Obligations.AndCombinesTheMagnitudes : Prop :=
  encode .and = 0x00000006 ∧ OnlyLegalWord 0x00000006 ∧
  ∀ s : State, s.Ready →
    (s.a.len.toNat ≤ s.cfg.lmax → s.b.len.toNat ≤ s.cfg.lmax →
      ∃ t, exec .and s = .next t ∧ t.HasResult (s.a.value &&& s.b.value) (decide (s.a.signed < 0)) .none) ∧
    (s.cfg.lmax < s.a.len.toNat ∨ s.cfg.lmax < s.b.len.toNat →
      exec .and s = .next { s with err := true, errcode := .badLength, done := true })

/-- R461, R452: 0 OR x has sign 0, whatever the sign stored with A. -/
def Obligations.OrCombinesTheMagnitudes : Prop :=
  encode .or = 0x00000007 ∧ OnlyLegalWord 0x00000007 ∧
  ∀ s : State, s.Ready →
    (s.a.len.toNat ≤ s.cfg.lmax → s.b.len.toNat ≤ s.cfg.lmax →
      ∃ t, exec .or s = .next t ∧ t.HasResult (s.a.value ||| s.b.value) (decide (s.a.signed < 0)) .none) ∧
    (s.cfg.lmax < s.a.len.toNat ∨ s.cfg.lmax < s.b.len.toNat →
      exec .or s = .next { s with err := true, errcode := .badLength, done := true })

/-- R462, R452. -/
def Obligations.XorCombinesTheMagnitudes : Prop :=
  encode .xor = 0x00000008 ∧ OnlyLegalWord 0x00000008 ∧
  ∀ s : State, s.Ready →
    (s.a.len.toNat ≤ s.cfg.lmax → s.b.len.toNat ≤ s.cfg.lmax →
      ∃ t, exec .xor s = .next t ∧ t.HasResult (s.a.value ^^^ s.b.value) (decide (s.a.signed < 0)) .none) ∧
    (s.cfg.lmax < s.a.len.toNat ∨ s.cfg.lmax < s.b.len.toNat →
      exec .xor s = .next { s with err := true, errcode := .badLength, done := true })

/-- R510, R500: SHL by 0 to 15; a larger amount is refused with BAD_SHAMT, before the length is checked. -/
def Obligations.ShlMultipliesByAPowerOfTwo : Prop :=
  (∀ n : BitVec 8, encode (.shl n) = n.setWidth 32 <<< 8 ||| 0x00000009) ∧
  (∀ (s : State) (v : Word), s.inflight = none → v.toNat % 32 = 0x09 →
    v.toNat / 32 % 8 ≠ 0 ∨ v.toNat / 65536 ≠ 0 →
    s.busWrite 0x0000C v = { s with err := true, errcode := .badOpcode, done := true }) ∧
  ∀ (s : State) (n : BitVec 8), s.Ready →
    (n.toNat ≤ 15 → s.a.len.toNat ≤ s.cfg.lmax →
      ∃ t, exec (.shl n) s = .next t ∧ t.shout = s.shout ∧
        t.HasResult (s.a.value * 2 ^ n.toNat) (decide (s.a.signed < 0)) .none) ∧
    (15 < n.toNat → exec (.shl n) s = .next { s with err := true, errcode := .badShamt, done := true }) ∧
    (n.toNat ≤ 15 → s.cfg.lmax < s.a.len.toNat →
      exec (.shl n) s = .next { s with err := true, errcode := .badLength, done := true })

/-- R511, R500: SHR by 0 to 15; R holds the quotient and SHOUT the bits shifted out. -/
def Obligations.ShrDividesByAPowerOfTwo : Prop :=
  (∀ n : BitVec 8, encode (.shr n) = n.setWidth 32 <<< 8 ||| 0x0000000A) ∧
  (∀ (s : State) (v : Word), s.inflight = none → v.toNat % 32 = 0x0A →
    v.toNat / 32 % 8 ≠ 0 ∨ v.toNat / 65536 ≠ 0 →
    s.busWrite 0x0000C v = { s with err := true, errcode := .badOpcode, done := true }) ∧
  ∀ (s : State) (n : BitVec 8), s.Ready →
    (n.toNat ≤ 15 → s.a.len.toNat ≤ s.cfg.lmax →
      ∃ t, exec (.shr n) s = .next t ∧ t.shout.toNat = s.a.value % 2 ^ n.toNat ∧
        t.HasResult (s.a.value / 2 ^ n.toNat) (decide (s.a.signed < 0)) .none) ∧
    (15 < n.toNat → exec (.shr n) s = .next { s with err := true, errcode := .badShamt, done := true }) ∧
    (n.toNat ≤ 15 → s.cfg.lmax < s.a.len.toNat →
      exec (.shr n) s = .next { s with err := true, errcode := .badLength, done := true })

/-- R551: NEG gives -a, and +0 for zero however it is stored. -/
def Obligations.NegNegatesTheValue : Prop :=
  encode .neg = 0x0000000B ∧ OnlyLegalWord 0x0000000B ∧
  ∀ s : State, s.Ready →
    (s.a.len.toNat ≤ s.cfg.lmax →
      ∃ t, exec .neg s = .next t ∧ t.r.signed = -s.a.signed ∧
        t.HasResult s.a.value (decide (0 < s.a.signed)) .none) ∧
    (s.cfg.lmax < s.a.len.toNat →
      exec .neg s = .next { s with err := true, errcode := .badLength, done := true })

/-- R552: COPY gives a, normalized. -/
def Obligations.CopyNormalizesTheValue : Prop :=
  encode .copy = 0x0000000C ∧ OnlyLegalWord 0x0000000C ∧
  ∀ s : State, s.Ready →
    (s.a.len.toNat ≤ s.cfg.lmax →
      ∃ t, exec .copy s = .next t ∧ t.r.signed = s.a.signed ∧
        t.HasResult s.a.value (decide (s.a.signed < 0)) .none) ∧
    (s.cfg.lmax < s.a.len.toNat →
      exec .copy s = .next { s with err := true, errcode := .badLength, done := true })

/-- R556: A takes the limbs below LEN_R, the length and the sign of R; its other limbs, and all else but the fields of
STATUS that completion writes, keep their values. -/
def Obligations.MovraMovesTheResultIntoA : Prop :=
  encode .movra = 0x0000000D ∧ OnlyLegalWord 0x0000000D ∧
  ∀ s : State, s.Ready →
    (s.r.len.toNat ≤ s.cfg.lmax →
      ∃ x : BigReg,
        exec .movra s =
          .next { s with a := x, done := true, err := false, errcode := .none, inflight := none } ∧
        x.len = s.r.len ∧ x.sign = s.r.sign ∧ x.limbs.length = s.cfg.lmax ∧
        (∀ k < s.r.len.toNat, x.limbs.getD k 0 = s.r.limbs.getD k 0) ∧
        (∀ k ≥ s.r.len.toNat, x.limbs.getD k 0 = s.a.limbs.getD k 0)) ∧
    (s.cfg.lmax < s.r.len.toNat →
      exec .movra s = .next { s with err := true, errcode := .capacity, done := true })

/-- R557. -/
def Obligations.MovrbMovesTheResultIntoB : Prop :=
  encode .movrb = 0x0000000E ∧ OnlyLegalWord 0x0000000E ∧
  ∀ s : State, s.Ready →
    (s.r.len.toNat ≤ s.cfg.lmax →
      ∃ x : BigReg,
        exec .movrb s =
          .next { s with b := x, done := true, err := false, errcode := .none, inflight := none } ∧
        x.len = s.r.len ∧ x.sign = s.r.sign ∧ x.limbs.length = s.cfg.lmax ∧
        (∀ k < s.r.len.toNat, x.limbs.getD k 0 = s.r.limbs.getD k 0) ∧
        (∀ k ≥ s.r.len.toNat, x.limbs.getD k 0 = s.b.limbs.getD k 0)) ∧
    (s.cfg.lmax < s.r.len.toNat →
      exec .movrb s = .next { s with err := true, errcode := .capacity, done := true })

/-- R550: NOP does nothing but go through acceptance and completion, in every state. -/
def Obligations.NopOnlyCompletes : Prop :=
  encode .nop = 0x00000000 ∧ OnlyLegalWord 0x00000000 ∧
  ∀ s : State,
    exec .nop s = .next { s with done := true, err := false, errcode := .none, inflight := none } ∧
    (s.rst = false → s.ie = true → ∃ t, exec .nop s = .next t ∧ t.irq = true)

/-! ### Frames and promises over all commands -/

/-- R117, R118: a command that writes R (opcodes 0x01 to 0x0C), completed or refused, leaves A, B, CTRL, OVR, the
parameters and the model's bookkeeping alone; only SHR writes SHOUT; and every window offset but STATUS, LENR, SHOUT and
the R window reads as before. Inputs and read data are the model's own fields (log 1, 9). -/
def Obligations.ResultCommandsFrame : Prop :=
  ∀ (i : Instr) (s t : State), 0x01 ≤ i.opcode.toNat → i.opcode.toNat ≤ 0x0C → exec i s = .next t →
    t.a = s.a ∧ t.b = s.b ∧ t.ie = s.ie ∧ t.ovr = s.ovr ∧ t.cfg = s.cfg ∧ t.rst = s.rst ∧ t.inputs = s.inputs ∧
    t.rdata = s.rdata ∧ (i.opcode.toNat ≠ 0x0A → t.shout = s.shout) ∧
    ∀ off : Offset, off.toNat < 0xC0000 → off.toNat / 4 ≠ 4 → off.toNat / 4 ≠ 7 → off.toNat / 4 ≠ 8 →
      t.regWord (decodeOffset off) = s.regWord (decodeOffset off)

/-- R556, R557: after MOVRA or MOVRB, completed or refused, every window offset reads as before but STATUS, the target's
length register and the target's limbs below LEN_R. -/
def Obligations.MovesFrame : Prop :=
  ∀ (s t : State) (off : Offset), s.Ready →
    (exec .movra s = .next t → off.toNat / 4 ≠ 4 → off.toNat / 4 ≠ 5 →
      ¬(0x10000 ≤ off.toNat / 4 ∧ off.toNat / 4 < 0x10000 + s.r.len.toNat) →
      t.regWord (decodeOffset off) = s.regWord (decodeOffset off)) ∧
    (exec .movrb s = .next t → off.toNat / 4 ≠ 4 → off.toNat / 4 ≠ 6 →
      ¬(0x20000 ≤ off.toNat / 4 ∧ off.toNat / 4 < 0x20000 + s.r.len.toNat) →
      t.regWord (decodeOffset off) = s.regWord (decodeOffset off))

/-- R114, R420: whatever command ran, if R was canonical before it is canonical after: no leading zero limb, no negative
zero, at most RMAX limbs. -/
def Obligations.EveryCommandLeavesACanonicalResult : Prop :=
  ∀ (i : Instr) (s t : State), s.Ready → s.r.Canonical → s.r.len.toNat ≤ s.cfg.rmax → exec i s = .next t →
    t.r.Canonical ∧ t.r.len.toNat ≤ t.cfg.rmax

/-- R117: no command reads a flag. Two states that differ in CMP, SHOUT, DONE, ERR, ERRCODE and OVR alone give the same
A, B, R, the same CMP when a command that writes it completes, and the same SHOUT when SHR does. Z and N are views of R,
which MOVRA and MOVRB move; every other command gives the same results whatever R held before. -/
def Obligations.NoCommandReadsAFlag : Prop :=
  ∀ (i : Instr) (s : State) (c : Cmp) (v : Limb) (d e o : Bool) (k : ErrCode),
    (∃ t t' : State, exec i s = .next t ∧
      exec i { s with cmp := c, shout := v, done := d, err := e, errcode := k, ovr := o } = .next t' ∧
      t.a = t'.a ∧ t.b = t'.b ∧ t.r = t'.r ∧ t.done = t'.done ∧
      (t.Completed → 0x01 ≤ i.opcode.toNat → i.opcode.toNat ≤ 0x0C → t.cmp = t'.cmp) ∧
      (acceptError i s = none → i.opcode.toNat = 0x0A → t.shout = t'.shout)) ∧
    ∀ x : BigReg, i.opcode.toNat ≠ 0x0D → i.opcode.toNat ≠ 0x0E →
      ∃ t t' : State, exec i s = .next t ∧ exec i { s with r := x } = .next t' ∧
        t.a = t'.a ∧ t.b = t'.b ∧ t.shout = t'.shout ∧ t.cmp = t'.cmp ∧ t.done = t'.done ∧ t.err = t'.err ∧
        t.errcode = t'.errcode ∧ (acceptError i s = none → 0x01 ≤ i.opcode.toNat → t.r = t'.r)

/-- R113, R115: no command reads a limb at or above the length of its register. Two states whose limb files agree below
their lengths give the same result, the same operand values, CMP and SHOUT. -/
def Obligations.NoCommandReadsALimbAboveItsLength : Prop :=
  ∀ (i : Instr) (s : State) (la lb lr : List Limb), s.Ready → s.r.len.toNat ≤ s.cfg.rmax →
    la.length = s.cfg.lmax → lb.length = s.cfg.lmax → lr.length = s.cfg.rmax →
    la.take s.a.len.toNat = s.a.operand → lb.take s.b.len.toNat = s.b.operand →
    lr.take s.r.len.toNat = s.r.operand →
    ∃ t t' : State, exec i s = .next t ∧
      exec i { s with a := { s.a with limbs := la }, b := { s.b with limbs := lb },
                      r := { s.r with limbs := lr } } = .next t' ∧
      t.a.operand = t'.a.operand ∧ t.a.len = t'.a.len ∧ t.a.sign = t'.a.sign ∧
      t.b.operand = t'.b.operand ∧ t.b.len = t'.b.len ∧ t.b.sign = t'.b.sign ∧
      t.r.operand = t'.r.operand ∧ t.r.len = t'.r.len ∧ t.r.sign = t'.r.sign ∧
      t.cmp = t'.cmp ∧ t.shout = t'.shout ∧ t.statusWord = t'.statusWord

/-- 95_test_vectors.md E12: SHL by n, MOVRA, SHR by n gives a back with SHOUT = 0, when the shifted value fits A. -/
def Obligations.ShiftLeftThenRightIsTheIdentity : Prop :=
  ∀ (s : State) (n : BitVec 8), s.Ready → s.a.len.toNat ≤ s.cfg.lmax → n.toNat ≤ 15 →
    nlen (s.a.value * 2 ^ n.toNat) ≤ s.cfg.lmax →
    ∃ t u v : State, exec (.shl n) s = .next t ∧ exec .movra t = .next u ∧ exec (.shr n) u = .next v ∧
      v.r.signed = s.a.signed ∧ v.shout = 0

/-- R551: NEG twice, through MOVRA, gives the value back. -/
def Obligations.NegTwiceIsTheIdentity : Prop :=
  ∀ s : State, s.Ready → s.a.len.toNat ≤ s.cfg.lmax →
    ∃ t u v : State, exec .neg s = .next t ∧ exec .movra t = .next u ∧ exec .neg u = .next v ∧
      v.r.signed = s.a.signed ∧ v.r.len.toNat = nlen s.a.value

/-- R118: the datapath's step is the only transition that changes R, LENR, SHOUT or CMP, and while a command is in
flight the host changes neither the operands nor that command; a reset apart (R702). -/
def Obligations.OnlyCompletionChangesTheResult : Prop :=
  ∀ (x : Access) (s t : State), hostStep x s = .next t →
    (∀ b, x ≠ .rst b) →
    (∀ addr off v, x = .write addr v → windowOffset s.cfg addr = some off → off.toNat / 4 = 2 → v[1] = false) →
    t.r = s.r ∧ t.shout = s.shout ∧ t.cmp = s.cmp ∧
    (s.inflight ≠ none → t.a = s.a ∧ t.b = s.b ∧ t.inflight = s.inflight)

/-! ### The window (20_memory.md, 10_state.md, 70_reset_and_hazards.md) -/

/-- R203: offset bits [1:0] are ignored, for reads and for writes. -/
def Obligations.MisalignedOffsetsAlias : Prop :=
  ∀ (s : State) (off : Offset) (v : Word),
    s.busRead off = s.busRead (off &&& 0xFFFFC) ∧ s.busWrite off v = s.busWrite (off &&& 0xFFFFC) v

/-- R206, R207, R209: on an idle block limb i of A or B takes data bits [14:0] and reads back zero-extended; every other
register keeps its word. -/
def Obligations.OperandLimbWriteReadsBack : Prop :=
  ∀ (s : State) (i : Nat) (v : Word), s.Ready → s.inflight = none → i < s.cfg.lmax →
    (let t := s.busWrite (BitVec.ofNat 20 (0x40000 + 4 * i)) v
     t.a.limbs.getD i 0 = v.extractLsb' 0 15 ∧
     (t.busRead (BitVec.ofNat 20 (0x40000 + 4 * i))).rdata = v &&& 0x7FFF ∧
     ∀ reg, reg ≠ .limbA i → t.regWord reg = s.regWord reg) ∧
    (let t := s.busWrite (BitVec.ofNat 20 (0x80000 + 4 * i)) v
     t.b.limbs.getD i 0 = v.extractLsb' 0 15 ∧
     (t.busRead (BitVec.ofNat 20 (0x80000 + 4 * i))).rdata = v &&& 0x7FFF ∧
     ∀ reg, reg ≠ .limbB i → t.regWord reg = s.regWord reg)

/-- R208: on an idle block a read of R[i] returns its limb zero-extended, and a write to the R window does nothing, busy
or not. Cells at or above LEN_R hold free values (log 7). -/
def Obligations.ResultWindowIsReadOnly : Prop :=
  ∀ (s : State) (i : Nat) (v : Word), s.Ready → i < s.cfg.rmax →
    (s.inflight = none →
      (s.busRead (BitVec.ofNat 20 (0xC0000 + 4 * i))).rdata = (s.r.limbs.getD i 0).setWidth 32) ∧
    s.busWrite (BitVec.ofNat 20 (0xC0000 + 4 * i)) v = s

/-- R210, R211: on an idle block an offset past the end of a limb file, or a reserved offset, reads 0 and ignores
writes; and the reserved bits of every register read 0, busy or not. That the reserved bits of a register
the in-flight command writes read 0 is the model's reading of R712 with R121 (log 8). -/
def Obligations.ReservedIsReadZeroWriteIgnored : Prop :=
  ∀ (s : State) (off : Offset) (v : Word), s.cfg.wf = true →
    (s.inflight = none →
      (0x00024 ≤ off.toNat ∧ off.toNat < 0x40000) ∨
        (0x40000 + 4 * s.cfg.lmax ≤ off.toNat ∧ off.toNat < 0x80000) ∨
        (0x80000 + 4 * s.cfg.lmax ≤ off.toNat ∧ off.toNat < 0xC0000) ∨ 0xC0000 + 4 * s.cfg.rmax ≤ off.toNat →
      (s.busRead off).rdata = 0 ∧ s.busWrite off v = s) ∧
    (off.toNat / 4 = 2 → (s.busRead off).rdata &&& 0xFFFFFFFE = 0) ∧
    (off.toNat / 4 = 4 → (s.busRead off).rdata &&& 0xFFFFF000 = 0) ∧
    (off.toNat / 4 = 5 ∨ off.toNat / 4 = 6 ∨ off.toNat / 4 = 7 → (s.busRead off).rdata &&& 0x7FFF0000 = 0) ∧
    (off.toNat / 4 = 8 ∨ 0x40000 ≤ off.toNat → (s.busRead off).rdata &&& 0xFFFF8000 = 0)

/-- R102, R103: on an idle block LENA and LENB take every 16-bit length, above LMAX too, and the sign; bits [30:16] read
0; no limb and nothing else of the state changes. -/
def Obligations.LengthRegistersReadBack : Prop :=
  ∀ (s : State) (v : Word), s.inflight = none →
    (s.busWrite 0x00014 v = { s with a := { s.a with len := v.extractLsb' 0 16, sign := v[31] } } ∧
      ((s.busWrite 0x00014 v).busRead 0x00014).rdata = v &&& 0x8000FFFF) ∧
    (s.busWrite 0x00018 v = { s with b := { s.b with len := v.extractLsb' 0 16, sign := v[31] } } ∧
      ((s.busWrite 0x00018 v).busRead 0x00018).rdata = v &&& 0x8000FFFF)

/-- R108, R109, R601: where each field of STATUS stands, Z and N being live views of LENR; an idle block's
STATUS reads so; a write clears the W1C bits
written as 1, ERRCODE with ERR, and nothing else; the register is 0x10 after reset. -/
def Obligations.StatusFieldsAndWriteOneToClear : Prop :=
  (∀ s : State,
    s.statusWord[0] = s.inflight.isSome ∧ s.statusWord[1] = s.done ∧ s.statusWord[2] = s.err ∧
    s.statusWord[3] = s.ovr ∧ s.statusWord[4] = decide (s.r.len = 0) ∧ s.statusWord[5] = s.r.sign ∧
    s.statusWord.extractLsb' 6 2 =
      (match s.cmp with | .none => 0b00 | .gt => 0b01 | .lt => 0b10 | .eq => 0b11) ∧
    s.statusWord.extractLsb' 8 4 =
      (match s.errcode with | .none => 0 | .badOpcode => 1 | .badShamt => 2 | .badLength => 3 | .capacity => 4) ∧
    s.statusWord.extractLsb' 12 20 = 0 ∧ (s.inflight = none → (s.busRead 0x00010).rdata = s.statusWord)) ∧
  (∀ (s : State) (v : Word), s.busWrite 0x00010 v =
    { s with
      done := s.done && !v[1], err := s.err && !v[2], ovr := s.ovr && !v[3]
      errcode := if v[2] = true then .none else s.errcode }) ∧
  State.reset.statusWord = 0x00000010

/-- R107: a CTRL write with SRST = 0 sets IE and nothing else, with SRST = 1 it resets and leaves IE = 0 whatever bit 0
held, busy or not; CTRL reads back IE alone. -/
def Obligations.CtrlWriteSetsIeOrResets : Prop :=
  ∀ (s : State) (v : Word),
    (v[1] = false → s.busWrite 0x00008 v = { s with ie := v[0] }) ∧
    (v[1] = true → (s.busWrite 0x00008 v).ie = false ∧ (s.busWrite 0x00008 v).inflight = none) ∧
    ((s.busWrite 0x00008 v).busRead 0x00008).rdata = if v[1] = false ∧ v[0] = true then 1 else 0

/-- R120, R700 to R702: a soft reset, busy or not, the deassertion of the reset input, and the machine's start all leave
the values of R120's table, and keep the parameters. That the reset input is two
events of the schedule is the model's choice (log 13). -/
def Obligations.EveryResetLeavesTheResetValues : Prop :=
  State.reset.HasResetValues ∧
  ∀ s : State, s.rst = false →
    (∀ v : Word, v[1] = true → (s.busWrite 0x00008 v).HasResetValues ∧ (s.busWrite 0x00008 v).cfg = s.cfg) ∧
    (∃ t u : State, hostStep (.rst true) s = .next t ∧ t.rst = true ∧ hostStep (.rst false) t = .next u ∧
      u.rst = false ∧ u.HasResetValues ∧ u.cfg = s.cfg)

/-- R110, R111: the constants, whatever is written to them and whatever is in flight. -/
def Obligations.IdAndParamAreConstants : Prop :=
  ∀ (s : State) (v : Word), s.cfg.wf = true →
    (s.busRead 0x00000).rdata = 0x4A534249 ∧ (s.busRead 0x00004).rdata.toNat = 0x010F0000 + s.cfg.lmax ∧
    s.busWrite 0x00000 v = s ∧ s.busWrite 0x00004 v = s

/-- R106, R105, R112: SHOUT, LENR and CMD read as their rules say on an idle block; SHOUT and LENR ignore writes. -/
def Obligations.ReadOnlyRegistersReadTheirFields : Prop :=
  ∀ (s : State) (v : Word),
    (s.inflight = none → (s.busRead 0x00020).rdata.toNat = s.shout.toNat ∧
      (s.busRead 0x0001C).rdata.toNat = s.r.sign.toNat * 2 ^ 31 + s.r.len.toNat) ∧
    (s.busRead 0x0000C).rdata = 0 ∧ s.busWrite 0x00020 v = s ∧ s.busWrite 0x0001C v = s

/-- R212: a read changes nothing but the read data and the model's draw counter, not even that while the register is
exact; and a second read of the same register then returns the same value. Read data and the draw counter are
the model's own fields (log 9, 10). -/
def Obligations.ReadsHaveNoSideEffects : Prop :=
  ∀ (s : State) (off : Offset),
    (∃ v d, s.busRead off = { s with rdata := v, draws := d }) ∧
    (s.unspecified (decodeOffset off) = 0 →
      (s.busRead off).draws = s.draws ∧ ((s.busRead off).busRead off) = s.busRead off)

/-- R710: while busy, a write to CMD, LENA, LENB or any A- or B-window offset, reserved indices included, sets OVR and
does nothing else; a write to a read-only or reserved register does nothing at all. -/
def Obligations.BusyWritesAreDropped : Prop :=
  ∀ (s : State) (off : Offset) (v : Word), s.inflight ≠ none →
    (off.toNat / 4 = 3 ∨ off.toNat / 4 = 5 ∨ off.toNat / 4 = 6 ∨ (0x40000 ≤ off.toNat ∧ off.toNat < 0xC0000) →
      s.busWrite off v = { s with ovr := true }) ∧
    (off.toNat / 4 = 0 ∨ off.toNat / 4 = 1 ∨ (7 ≤ off.toNat / 4 ∧ off.toNat < 0x40000) ∨ 0xC0000 ≤ off.toNat →
      s.busWrite off v = s)

/-- R711: while busy, a CTRL write with SRST = 0 changes IE and the command continues, one with SRST = 1 resets the
block, and a STATUS write can only clear OVR. -/
def Obligations.BusyControlWritesAreAllowed : Prop :=
  ∀ (s : State) (v : Word), s.Inv → s.inflight ≠ none →
    (v[1] = false → s.busWrite 0x00008 v = { s with ie := v[0] }) ∧
    (v[1] = true → (s.busWrite 0x00008 v).HasResetValues ∧ (s.busWrite 0x00008 v).cfg = s.cfg) ∧
    s.busWrite 0x00010 v = { s with ovr := s.ovr && !v[3] }

/-- R712: while busy, every read is exact but those of the registers the in-flight command writes: the R window, LENR
and STATUS bits [7:4] for opcodes 0x01 to 0x0C, SHOUT for SHR, the A window and LENA for MOVRA, the B window and LENB
for MOVRB. That STATUS [31:12] reads 0 then is the model's reading (log 8). -/
def Obligations.BusyReadsAreExactElsewhere : Prop :=
  ∀ (s : State) (i : Instr) (off : Offset), s.inflight = some i →
    let op := i.opcode.toNat
    let q := off.toNat / 4
    (¬((0x01 ≤ op ∧ op ≤ 0x0C) ∧ (0xC0000 ≤ off.toNat ∨ q = 7 ∨ q = 4)) → ¬(op = 0x0A ∧ q = 8) →
      ¬(op = 0x0D ∧ (q = 5 ∨ (0x40000 ≤ off.toNat ∧ off.toNat < 0x80000))) →
      ¬(op = 0x0E ∧ (q = 6 ∨ (0x80000 ≤ off.toNat ∧ off.toNat < 0xC0000))) →
      (s.busRead off).rdata = s.regWord (decodeOffset off)) ∧
    (q = 4 → (s.busRead off).rdata &&& 0xFFFFFF0F = s.statusWord &&& 0xFFFFFF0F)

/-- R605, R606: the level irq = IE AND DONE. A completion or a refusal (by any of the
four codes) with IE set raises it, so does setting IE while
DONE is set; clearing DONE or IE, accepting a command and a reset lower it; a dropped write changes it in neither
direction. -/
def Obligations.InterruptFollowsDoneAndIe : Prop :=
  ∀ (s : State) (w v : Word) (i : Instr), s.rst = false →
    s.irq = (s.ie && s.done) ∧ (∀ t, exec i s = .next t → t.irq = s.ie) ∧
    (s.inflight = none → (s.busWrite 0x0000C w).inflight = none → (s.busWrite 0x0000C w).irq = s.ie) ∧
    (s.inflight = none → ∀ code, decode w = .refuse code → (s.busWrite 0x0000C w).irq = s.ie) ∧
    (s.inflight = none → (s.busWrite 0x0000C w).inflight ≠ none → (s.busWrite 0x0000C w).irq = false) ∧
    (v[1] = true → (s.busWrite 0x00010 v).irq = false) ∧
    (v[1] = false → (s.busWrite 0x00010 v).irq = s.irq) ∧
    (v[1] = true → (s.busWrite 0x00008 v).irq = false) ∧
    (v[1] = false → (s.busWrite 0x00008 v).irq = (v[0] && s.done)) ∧
    (s.inflight ≠ none → (s.busWrite 0x0000C w).irq = s.irq)
end

