-- ==== Sys2Proof/Laws/Decode.lean ====
section
/-! SUPPORT. The fields of a command word as numbers (30_encoding.md R300, R301). -/

namespace Sys2Proof

/-- Fields put side by side weigh as their places say. -/
theorem append_toNat {n m : Nat} (x : BitVec n) (y : BitVec m) : (x ++ y).toNat = x.toNat * 2 ^ m + y.toNat := by
  rw [BitVec.toNat_append, ← Nat.shiftLeft_add_eq_or_of_lt y.isLt, Nat.shiftLeft_eq]

theorem encode_toNat (i : Instr) : (encode i).toNat = i.shamt.toNat * 256 + i.opcode.toNat := by
  have h : (encode i).toNat = ((0#16 ++ i.shamt ++ 0#3 ++ i.opcode : BitVec (16 + 8 + 3 + 5))).toNat := rfl
  rw [h, append_toNat, append_toNat, append_toNat]
  simp
  omega

@[simp] theorem fieldOp_toNat (w : Word) : (fieldOp w).toNat = w.toNat % 32 := by
  simp [fieldOp]

@[simp] theorem fieldRsv0_toNat (w : Word) : (fieldRsv0 w).toNat = w.toNat / 32 % 8 := by
  simp [fieldRsv0, Nat.shiftRight_eq_div_pow]

@[simp] theorem fieldShamt_toNat (w : Word) : (fieldShamt w).toNat = w.toNat / 256 % 256 := by
  simp [fieldShamt, Nat.shiftRight_eq_div_pow]

@[simp] theorem fieldRsv1_toNat (w : Word) : (fieldRsv1 w).toNat = w.toNat / 65536 := by
  have := w.isLt
  simp [fieldRsv1, Nat.shiftRight_eq_div_pow]
  omega

/-- The shift amount and opcode of a row of the opcode map (R303). -/
theorem commandOf_opcode {op : BitVec 5} {n : BitVec 8} {i : Instr} (h : commandOf op n = some i) :
    i.opcode = op ∧ (i.isShift = true → i.shamt = n) := by
  revert h
  unfold commandOf
  split <;> intro h <;> simp only [Option.some.injEq, reduceCtorEq] at h <;> subst h <;>
    exact ⟨BitVec.eq_of_toNat_eq (by simp_all [Instr.opcode]), by simp [Instr.isShift, Instr.shamt]⟩

end Sys2Proof
end

