-- ==== Sys2Proof/Laws/Limbs.lean ====
section
/-! SUPPORT. Values, lengths and numbers of limbs of limb arrays (00_scope.md R15): the small lemmas of
Machine/Limbs.lean, so that proofs need not unfold it. -/

namespace Sys2Proof.Machine
open Sys2Proof

@[simp] theorem limbsVal_nil : limbsVal [] = 0 := rfl

@[simp] theorem limbsVal_cons (x : Limb) (xs : List Limb) :
    limbsVal (x :: xs) = x.toNat + limbBase * limbsVal xs := rfl

theorem limbsVal_append (xs ys : List Limb) :
    limbsVal (xs ++ ys) = limbsVal xs + limbBase ^ xs.length * limbsVal ys := by
  induction xs with
  | nil => simp
  | cons x xs ih => simp only [List.cons_append, limbsVal_cons, ih, List.length_cons, pow_succ]; ring

/-- L limbs hold a value below 2^(15*L). -/
theorem limbsVal_lt (xs : List Limb) : limbsVal xs < limbBase ^ xs.length := by
  induction xs with
  | nil => simp
  | cons x xs ih =>
    have hx := x.isLt
    simp only [limbsVal_cons, List.length_cons, pow_succ]
    simp only [limbBase] at *
    omega

theorem limbBase_pow (n : Nat) : limbBase ^ n = 2 ^ (limbWidth * n) := by
  rw [pow_mul]; rfl

@[simp] theorem nlen_zero : nlen 0 = 0 := rfl

/-- nlen(v) is the least number of limbs that hold v (00_scope.md R15). -/
theorem nlen_le_iff (v n : Nat) : nlen v ≤ n ↔ v < limbBase ^ n := by
  rw [limbBase_pow]
  unfold nlen
  split
  · subst_vars; simp
  · rename_i h
    rw [← Nat.log2_lt h]
    simp only [limbWidth]
    omega

theorem nlen_eq_zero_iff (v : Nat) : nlen v = 0 ↔ v = 0 := by
  have := nlen_le_iff v 0
  simp at this
  omega

theorem nlen_limbsVal_le (xs : List Limb) : nlen (limbsVal xs) ≤ xs.length :=
  (nlen_le_iff _ _).2 (limbsVal_lt xs)

/-- The first n limbs of v hold v mod 2^(15*n). -/
theorem limbsVal_limbOf (v n : Nat) :
    limbsVal ((List.range n).map (limbOf v)) = v % limbBase ^ n := by
  induction n with
  | zero => simp [Nat.mod_one]
  | succ n ih =>
    have h : v % limbBase ^ (n + 1) = v % limbBase ^ n + limbBase ^ n * (v / limbBase ^ n % limbBase) := by
      rw [pow_succ, Nat.mod_mul]
    rw [List.range_succ, List.map_append, limbsVal_append, ih, h]
    simp [limbOf, Nat.shiftRight_eq_div_pow, ← limbBase_pow]

theorem limbsVal_limbOf_nlen (v : Nat) : limbsVal ((List.range (nlen v)).map (limbOf v)) = v := by
  rw [limbsVal_limbOf, Nat.mod_eq_of_lt ((nlen_le_iff v _).1 le_rfl)]

@[simp] theorem lanePairs_length (xs ys : List Limb) : (lanePairs xs ys).length = max xs.length ys.length := by
  simp [lanePairs]

@[simp] theorem addLanes_length (c : Nat) (ps : List (Limb × Limb)) : (addLanes c ps).length = ps.length + 1 := by
  induction ps generalizing c with
  | nil => rfl
  | cons p ps ih => simp [addLanes, ih]

@[simp] theorem subLanes_length (b : Nat) (ps : List (Limb × Limb)) : (subLanes b ps).length = ps.length := by
  induction ps generalizing b with
  | nil => rfl
  | cons p ps ih => simp only [subLanes]; split <;> simp [ih]

@[simp] theorem mulRow_length (x : Limb) (c : Nat) (ps : List (Limb × Limb)) :
    (mulRow x c ps).length = ps.length + 1 := by
  induction ps generalizing c with
  | nil => rfl
  | cons p ps ih => simp [mulRow, ih]

theorem mulRows_length (ys xs acc : List Limb) (h : acc.length = ys.length) :
    (mulRows ys xs acc).length = xs.length + ys.length := by
  induction xs generalizing acc with
  | nil => simp [mulRows, h]
  | cons x xs ih =>
    have hl := mulRow_length x 0 (ys.zip acc)
    simp only [mulRows]
    split
    · simp_all
    · rename_i p acc' he
      rw [he] at hl
      simp [h] at hl
      simp [ih acc' hl]; omega

@[simp] theorem mapLanes_length (f : Limb → Limb → Limb) (xs ys : List Limb) :
    (mapLanes f xs ys).length = max xs.length ys.length := by
  simp [mapLanes]

@[simp] theorem shlLimbs_length (n : Nat) (xs : List Limb) : (shlLimbs n xs).length = xs.length + 1 := by
  simp [shlLimbs]

@[simp] theorem shrLimbs_length (n : Nat) (xs : List Limb) : (shrLimbs n xs).length = xs.length := by
  simp [shrLimbs]
end Sys2Proof.Machine
end

