-- ==== Sys2Proof/Laws/State.lean ====
section
/-! SUPPORT. One lemma per field per update of State, each true by rfl, so that no proof unfolds a record update. -/

namespace Sys2Proof.Machine

open Sys2Proof

/-! ### State.finish -/

@[simp] theorem State.finish_cfg (s : State) (m : Nat) (sg : Bool) : (s.finish m sg).cfg = s.cfg := rfl
@[simp] theorem State.finish_a (s : State) (m : Nat) (sg : Bool) : (s.finish m sg).a = s.a := rfl
@[simp] theorem State.finish_b (s : State) (m : Nat) (sg : Bool) : (s.finish m sg).b = s.b := rfl
@[simp] theorem State.finish_r (s : State) (m : Nat) (sg : Bool) :
    (s.finish m sg).r = { limbs := resultLimbs m s.cfg.rmax s.draws, len := BitVec.ofNat 16 (nlen m), sign := sg && decide (m ≠ 0) } := rfl
@[simp] theorem State.finish_shout (s : State) (m : Nat) (sg : Bool) : (s.finish m sg).shout = s.shout := rfl
@[simp] theorem State.finish_ie (s : State) (m : Nat) (sg : Bool) : (s.finish m sg).ie = s.ie := rfl
@[simp] theorem State.finish_done (s : State) (m : Nat) (sg : Bool) : (s.finish m sg).done = s.done := rfl
@[simp] theorem State.finish_err (s : State) (m : Nat) (sg : Bool) : (s.finish m sg).err = s.err := rfl
@[simp] theorem State.finish_ovr (s : State) (m : Nat) (sg : Bool) : (s.finish m sg).ovr = s.ovr := rfl
@[simp] theorem State.finish_cmp (s : State) (m : Nat) (sg : Bool) : (s.finish m sg).cmp = s.cmp := rfl
@[simp] theorem State.finish_errcode (s : State) (m : Nat) (sg : Bool) : (s.finish m sg).errcode = s.errcode := rfl
@[simp] theorem State.finish_inflight (s : State) (m : Nat) (sg : Bool) : (s.finish m sg).inflight = s.inflight := rfl
@[simp] theorem State.finish_rst (s : State) (m : Nat) (sg : Bool) : (s.finish m sg).rst = s.rst := rfl
@[simp] theorem State.finish_inputs (s : State) (m : Nat) (sg : Bool) : (s.finish m sg).inputs = s.inputs := rfl
@[simp] theorem State.finish_rdata (s : State) (m : Nat) (sg : Bool) : (s.finish m sg).rdata = s.rdata := rfl
@[simp] theorem State.finish_draws (s : State) (m : Nat) (sg : Bool) : (s.finish m sg).draws = s.draws + s.cfg.rmax := rfl

/-! ### State.setCmp -/

@[simp] theorem State.setCmp_cfg (s : State) (c : Cmp) : (s.setCmp c).cfg = s.cfg := rfl
@[simp] theorem State.setCmp_a (s : State) (c : Cmp) : (s.setCmp c).a = s.a := rfl
@[simp] theorem State.setCmp_b (s : State) (c : Cmp) : (s.setCmp c).b = s.b := rfl
@[simp] theorem State.setCmp_r (s : State) (c : Cmp) : (s.setCmp c).r = s.r := rfl
@[simp] theorem State.setCmp_shout (s : State) (c : Cmp) : (s.setCmp c).shout = s.shout := rfl
@[simp] theorem State.setCmp_ie (s : State) (c : Cmp) : (s.setCmp c).ie = s.ie := rfl
@[simp] theorem State.setCmp_done (s : State) (c : Cmp) : (s.setCmp c).done = s.done := rfl
@[simp] theorem State.setCmp_err (s : State) (c : Cmp) : (s.setCmp c).err = s.err := rfl
@[simp] theorem State.setCmp_ovr (s : State) (c : Cmp) : (s.setCmp c).ovr = s.ovr := rfl
@[simp] theorem State.setCmp_cmp (s : State) (c : Cmp) : (s.setCmp c).cmp = c := rfl
@[simp] theorem State.setCmp_errcode (s : State) (c : Cmp) : (s.setCmp c).errcode = s.errcode := rfl
@[simp] theorem State.setCmp_inflight (s : State) (c : Cmp) : (s.setCmp c).inflight = s.inflight := rfl
@[simp] theorem State.setCmp_rst (s : State) (c : Cmp) : (s.setCmp c).rst = s.rst := rfl
@[simp] theorem State.setCmp_inputs (s : State) (c : Cmp) : (s.setCmp c).inputs = s.inputs := rfl
@[simp] theorem State.setCmp_rdata (s : State) (c : Cmp) : (s.setCmp c).rdata = s.rdata := rfl
@[simp] theorem State.setCmp_draws (s : State) (c : Cmp) : (s.setCmp c).draws = s.draws := rfl

/-! ### State.setShout -/

@[simp] theorem State.setShout_cfg (s : State) (v : Limb) : (s.setShout v).cfg = s.cfg := rfl
@[simp] theorem State.setShout_a (s : State) (v : Limb) : (s.setShout v).a = s.a := rfl
@[simp] theorem State.setShout_b (s : State) (v : Limb) : (s.setShout v).b = s.b := rfl
@[simp] theorem State.setShout_r (s : State) (v : Limb) : (s.setShout v).r = s.r := rfl
@[simp] theorem State.setShout_shout (s : State) (v : Limb) : (s.setShout v).shout = v := rfl
@[simp] theorem State.setShout_ie (s : State) (v : Limb) : (s.setShout v).ie = s.ie := rfl
@[simp] theorem State.setShout_done (s : State) (v : Limb) : (s.setShout v).done = s.done := rfl
@[simp] theorem State.setShout_err (s : State) (v : Limb) : (s.setShout v).err = s.err := rfl
@[simp] theorem State.setShout_ovr (s : State) (v : Limb) : (s.setShout v).ovr = s.ovr := rfl
@[simp] theorem State.setShout_cmp (s : State) (v : Limb) : (s.setShout v).cmp = s.cmp := rfl
@[simp] theorem State.setShout_errcode (s : State) (v : Limb) : (s.setShout v).errcode = s.errcode := rfl
@[simp] theorem State.setShout_inflight (s : State) (v : Limb) : (s.setShout v).inflight = s.inflight := rfl
@[simp] theorem State.setShout_rst (s : State) (v : Limb) : (s.setShout v).rst = s.rst := rfl
@[simp] theorem State.setShout_inputs (s : State) (v : Limb) : (s.setShout v).inputs = s.inputs := rfl
@[simp] theorem State.setShout_rdata (s : State) (v : Limb) : (s.setShout v).rdata = s.rdata := rfl
@[simp] theorem State.setShout_draws (s : State) (v : Limb) : (s.setShout v).draws = s.draws := rfl

/-! ### State.setA -/

@[simp] theorem State.setA_cfg (s : State) (x : BigReg) : (s.setA x).cfg = s.cfg := rfl
@[simp] theorem State.setA_a (s : State) (x : BigReg) : (s.setA x).a = x := rfl
@[simp] theorem State.setA_b (s : State) (x : BigReg) : (s.setA x).b = s.b := rfl
@[simp] theorem State.setA_r (s : State) (x : BigReg) : (s.setA x).r = s.r := rfl
@[simp] theorem State.setA_shout (s : State) (x : BigReg) : (s.setA x).shout = s.shout := rfl
@[simp] theorem State.setA_ie (s : State) (x : BigReg) : (s.setA x).ie = s.ie := rfl
@[simp] theorem State.setA_done (s : State) (x : BigReg) : (s.setA x).done = s.done := rfl
@[simp] theorem State.setA_err (s : State) (x : BigReg) : (s.setA x).err = s.err := rfl
@[simp] theorem State.setA_ovr (s : State) (x : BigReg) : (s.setA x).ovr = s.ovr := rfl
@[simp] theorem State.setA_cmp (s : State) (x : BigReg) : (s.setA x).cmp = s.cmp := rfl
@[simp] theorem State.setA_errcode (s : State) (x : BigReg) : (s.setA x).errcode = s.errcode := rfl
@[simp] theorem State.setA_inflight (s : State) (x : BigReg) : (s.setA x).inflight = s.inflight := rfl
@[simp] theorem State.setA_rst (s : State) (x : BigReg) : (s.setA x).rst = s.rst := rfl
@[simp] theorem State.setA_inputs (s : State) (x : BigReg) : (s.setA x).inputs = s.inputs := rfl
@[simp] theorem State.setA_rdata (s : State) (x : BigReg) : (s.setA x).rdata = s.rdata := rfl
@[simp] theorem State.setA_draws (s : State) (x : BigReg) : (s.setA x).draws = s.draws := rfl

/-! ### State.setB -/

@[simp] theorem State.setB_cfg (s : State) (x : BigReg) : (s.setB x).cfg = s.cfg := rfl
@[simp] theorem State.setB_a (s : State) (x : BigReg) : (s.setB x).a = s.a := rfl
@[simp] theorem State.setB_b (s : State) (x : BigReg) : (s.setB x).b = x := rfl
@[simp] theorem State.setB_r (s : State) (x : BigReg) : (s.setB x).r = s.r := rfl
@[simp] theorem State.setB_shout (s : State) (x : BigReg) : (s.setB x).shout = s.shout := rfl
@[simp] theorem State.setB_ie (s : State) (x : BigReg) : (s.setB x).ie = s.ie := rfl
@[simp] theorem State.setB_done (s : State) (x : BigReg) : (s.setB x).done = s.done := rfl
@[simp] theorem State.setB_err (s : State) (x : BigReg) : (s.setB x).err = s.err := rfl
@[simp] theorem State.setB_ovr (s : State) (x : BigReg) : (s.setB x).ovr = s.ovr := rfl
@[simp] theorem State.setB_cmp (s : State) (x : BigReg) : (s.setB x).cmp = s.cmp := rfl
@[simp] theorem State.setB_errcode (s : State) (x : BigReg) : (s.setB x).errcode = s.errcode := rfl
@[simp] theorem State.setB_inflight (s : State) (x : BigReg) : (s.setB x).inflight = s.inflight := rfl
@[simp] theorem State.setB_rst (s : State) (x : BigReg) : (s.setB x).rst = s.rst := rfl
@[simp] theorem State.setB_inputs (s : State) (x : BigReg) : (s.setB x).inputs = s.inputs := rfl
@[simp] theorem State.setB_rdata (s : State) (x : BigReg) : (s.setB x).rdata = s.rdata := rfl
@[simp] theorem State.setB_draws (s : State) (x : BigReg) : (s.setB x).draws = s.draws := rfl

/-! ### State.refuse -/

@[simp] theorem State.refuse_cfg (s : State) (code : ErrCode) : (s.refuse code).cfg = s.cfg := rfl
@[simp] theorem State.refuse_a (s : State) (code : ErrCode) : (s.refuse code).a = s.a := rfl
@[simp] theorem State.refuse_b (s : State) (code : ErrCode) : (s.refuse code).b = s.b := rfl
@[simp] theorem State.refuse_r (s : State) (code : ErrCode) : (s.refuse code).r = s.r := rfl
@[simp] theorem State.refuse_shout (s : State) (code : ErrCode) : (s.refuse code).shout = s.shout := rfl
@[simp] theorem State.refuse_ie (s : State) (code : ErrCode) : (s.refuse code).ie = s.ie := rfl
@[simp] theorem State.refuse_done (s : State) (code : ErrCode) : (s.refuse code).done = true := rfl
@[simp] theorem State.refuse_err (s : State) (code : ErrCode) : (s.refuse code).err = true := rfl
@[simp] theorem State.refuse_ovr (s : State) (code : ErrCode) : (s.refuse code).ovr = s.ovr := rfl
@[simp] theorem State.refuse_cmp (s : State) (code : ErrCode) : (s.refuse code).cmp = s.cmp := rfl
@[simp] theorem State.refuse_errcode (s : State) (code : ErrCode) : (s.refuse code).errcode = code := rfl
@[simp] theorem State.refuse_inflight (s : State) (code : ErrCode) : (s.refuse code).inflight = s.inflight := rfl
@[simp] theorem State.refuse_rst (s : State) (code : ErrCode) : (s.refuse code).rst = s.rst := rfl
@[simp] theorem State.refuse_inputs (s : State) (code : ErrCode) : (s.refuse code).inputs = s.inputs := rfl
@[simp] theorem State.refuse_rdata (s : State) (code : ErrCode) : (s.refuse code).rdata = s.rdata := rfl
@[simp] theorem State.refuse_draws (s : State) (code : ErrCode) : (s.refuse code).draws = s.draws := rfl

/-! ### State.drop -/

@[simp] theorem State.drop_cfg (s : State) : s.drop.cfg = s.cfg := rfl
@[simp] theorem State.drop_a (s : State) : s.drop.a = s.a := rfl
@[simp] theorem State.drop_b (s : State) : s.drop.b = s.b := rfl
@[simp] theorem State.drop_r (s : State) : s.drop.r = s.r := rfl
@[simp] theorem State.drop_shout (s : State) : s.drop.shout = s.shout := rfl
@[simp] theorem State.drop_ie (s : State) : s.drop.ie = s.ie := rfl
@[simp] theorem State.drop_done (s : State) : s.drop.done = s.done := rfl
@[simp] theorem State.drop_err (s : State) : s.drop.err = s.err := rfl
@[simp] theorem State.drop_ovr (s : State) : s.drop.ovr = true := rfl
@[simp] theorem State.drop_cmp (s : State) : s.drop.cmp = s.cmp := rfl
@[simp] theorem State.drop_errcode (s : State) : s.drop.errcode = s.errcode := rfl
@[simp] theorem State.drop_inflight (s : State) : s.drop.inflight = s.inflight := rfl
@[simp] theorem State.drop_rst (s : State) : s.drop.rst = s.rst := rfl
@[simp] theorem State.drop_inputs (s : State) : s.drop.inputs = s.inputs := rfl
@[simp] theorem State.drop_rdata (s : State) : s.drop.rdata = s.rdata := rfl
@[simp] theorem State.drop_draws (s : State) : s.drop.draws = s.draws := rfl

/-! ### State.accept -/

@[simp] theorem State.accept_cfg (s : State) (i : Instr) : (s.accept i).cfg = s.cfg := rfl
@[simp] theorem State.accept_a (s : State) (i : Instr) : (s.accept i).a = s.a := rfl
@[simp] theorem State.accept_b (s : State) (i : Instr) : (s.accept i).b = s.b := rfl
@[simp] theorem State.accept_r (s : State) (i : Instr) : (s.accept i).r = s.r := rfl
@[simp] theorem State.accept_shout (s : State) (i : Instr) : (s.accept i).shout = s.shout := rfl
@[simp] theorem State.accept_ie (s : State) (i : Instr) : (s.accept i).ie = s.ie := rfl
@[simp] theorem State.accept_done (s : State) (i : Instr) : (s.accept i).done = false := rfl
@[simp] theorem State.accept_err (s : State) (i : Instr) : (s.accept i).err = false := rfl
@[simp] theorem State.accept_ovr (s : State) (i : Instr) : (s.accept i).ovr = s.ovr := rfl
@[simp] theorem State.accept_cmp (s : State) (i : Instr) : (s.accept i).cmp = s.cmp := rfl
@[simp] theorem State.accept_errcode (s : State) (i : Instr) : (s.accept i).errcode = .none := rfl
@[simp] theorem State.accept_inflight (s : State) (i : Instr) : (s.accept i).inflight = some i := rfl
@[simp] theorem State.accept_rst (s : State) (i : Instr) : (s.accept i).rst = s.rst := rfl
@[simp] theorem State.accept_inputs (s : State) (i : Instr) : (s.accept i).inputs = s.inputs := rfl
@[simp] theorem State.accept_rdata (s : State) (i : Instr) : (s.accept i).rdata = s.rdata := rfl
@[simp] theorem State.accept_draws (s : State) (i : Instr) : (s.accept i).draws = s.draws := rfl

/-! ### State.complete -/

@[simp] theorem State.complete_cfg (s : State) : s.complete.cfg = s.cfg := rfl
@[simp] theorem State.complete_a (s : State) : s.complete.a = s.a := rfl
@[simp] theorem State.complete_b (s : State) : s.complete.b = s.b := rfl
@[simp] theorem State.complete_r (s : State) : s.complete.r = s.r := rfl
@[simp] theorem State.complete_shout (s : State) : s.complete.shout = s.shout := rfl
@[simp] theorem State.complete_ie (s : State) : s.complete.ie = s.ie := rfl
@[simp] theorem State.complete_done (s : State) : s.complete.done = true := rfl
@[simp] theorem State.complete_err (s : State) : s.complete.err = false := rfl
@[simp] theorem State.complete_ovr (s : State) : s.complete.ovr = s.ovr := rfl
@[simp] theorem State.complete_cmp (s : State) : s.complete.cmp = s.cmp := rfl
@[simp] theorem State.complete_errcode (s : State) : s.complete.errcode = .none := rfl
@[simp] theorem State.complete_inflight (s : State) : s.complete.inflight = none := rfl
@[simp] theorem State.complete_rst (s : State) : s.complete.rst = s.rst := rfl
@[simp] theorem State.complete_inputs (s : State) : s.complete.inputs = s.inputs := rfl
@[simp] theorem State.complete_rdata (s : State) : s.complete.rdata = s.rdata := rfl
@[simp] theorem State.complete_draws (s : State) : s.complete.draws = s.draws := rfl

/-! ### State.toReset -/

@[simp] theorem State.toReset_cfg (s : State) : s.toReset.cfg = s.cfg := rfl
@[simp] theorem State.toReset_a (s : State) :
    s.toReset.a = { limbs := drawLimbs s.draws s.cfg.lmax, len := 0, sign := false } := rfl
@[simp] theorem State.toReset_b (s : State) :
    s.toReset.b = { limbs := drawLimbs (s.draws + s.cfg.lmax) s.cfg.lmax, len := 0, sign := false } := rfl
@[simp] theorem State.toReset_r (s : State) :
    s.toReset.r = { limbs := drawLimbs (s.draws + 2 * s.cfg.lmax) s.cfg.rmax, len := 0, sign := false } := rfl
@[simp] theorem State.toReset_shout (s : State) : s.toReset.shout = 0 := rfl
@[simp] theorem State.toReset_ie (s : State) : s.toReset.ie = false := rfl
@[simp] theorem State.toReset_done (s : State) : s.toReset.done = false := rfl
@[simp] theorem State.toReset_err (s : State) : s.toReset.err = false := rfl
@[simp] theorem State.toReset_ovr (s : State) : s.toReset.ovr = false := rfl
@[simp] theorem State.toReset_cmp (s : State) : s.toReset.cmp = .none := rfl
@[simp] theorem State.toReset_errcode (s : State) : s.toReset.errcode = .none := rfl
@[simp] theorem State.toReset_inflight (s : State) : s.toReset.inflight = none := rfl
@[simp] theorem State.toReset_rst (s : State) : s.toReset.rst = s.rst := rfl
@[simp] theorem State.toReset_inputs (s : State) : s.toReset.inputs = s.inputs := rfl
@[simp] theorem State.toReset_rdata (s : State) : s.toReset.rdata = s.rdata := rfl
@[simp] theorem State.toReset_draws (s : State) : s.toReset.draws = s.draws + 4 * s.cfg.lmax := rfl

/-! ### State.writeStatus -/

@[simp] theorem State.writeStatus_cfg (s : State) (v : Word) : (s.writeStatus v).cfg = s.cfg := rfl
@[simp] theorem State.writeStatus_a (s : State) (v : Word) : (s.writeStatus v).a = s.a := rfl
@[simp] theorem State.writeStatus_b (s : State) (v : Word) : (s.writeStatus v).b = s.b := rfl
@[simp] theorem State.writeStatus_r (s : State) (v : Word) : (s.writeStatus v).r = s.r := rfl
@[simp] theorem State.writeStatus_shout (s : State) (v : Word) : (s.writeStatus v).shout = s.shout := rfl
@[simp] theorem State.writeStatus_ie (s : State) (v : Word) : (s.writeStatus v).ie = s.ie := rfl
@[simp] theorem State.writeStatus_done (s : State) (v : Word) : (s.writeStatus v).done = (s.done && !v[1]) := rfl
@[simp] theorem State.writeStatus_err (s : State) (v : Word) : (s.writeStatus v).err = (s.err && !v[2]) := rfl
@[simp] theorem State.writeStatus_ovr (s : State) (v : Word) : (s.writeStatus v).ovr = (s.ovr && !v[3]) := rfl
@[simp] theorem State.writeStatus_cmp (s : State) (v : Word) : (s.writeStatus v).cmp = s.cmp := rfl
@[simp] theorem State.writeStatus_errcode (s : State) (v : Word) :
    (s.writeStatus v).errcode = if v[2] then .none else s.errcode := rfl
@[simp] theorem State.writeStatus_inflight (s : State) (v : Word) : (s.writeStatus v).inflight = s.inflight := rfl
@[simp] theorem State.writeStatus_rst (s : State) (v : Word) : (s.writeStatus v).rst = s.rst := rfl
@[simp] theorem State.writeStatus_inputs (s : State) (v : Word) : (s.writeStatus v).inputs = s.inputs := rfl
@[simp] theorem State.writeStatus_rdata (s : State) (v : Word) : (s.writeStatus v).rdata = s.rdata := rfl
@[simp] theorem State.writeStatus_draws (s : State) (v : Word) : (s.writeStatus v).draws = s.draws := rfl

end Sys2Proof.Machine
end

