-- ==== Sys2Proof/Laws/Ops.lean ====
section
/-! SUPPORT. One lemma per shared operation that says everything it can do (Machine/Ops.lean, Machine/Dispatch.lean), and
that each keeps the limb files' sizes. -/

namespace Sys2Proof.Machine

open Sys2Proof

/-! ### Acceptance -/

/-- A command passes its checks exactly when its shift amount is legal and every register it reads or moves fits
(60_exceptions.md R602). -/
theorem acceptError_eq_none_iff (i : Instr) (s : State) :
    acceptError i s = none ↔ i.wf = true ∧ (i.readsA = true → s.a.len.toNat ≤ s.cfg.lmax) ∧
      (i.readsB = true → s.b.len.toNat ≤ s.cfg.lmax) ∧ (i.movesR = true → s.r.len.toNat ≤ s.cfg.lmax) := by
  unfold acceptError
  cases i.wf <;> cases i.readsA <;> cases i.readsB <;> cases i.movesR <;>
    simp <;> split_ifs <;> simp_all

/-- A refusal of an operand check reports a code other than NONE. -/
theorem acceptError_ne_none {i : Instr} {s : State} {code : ErrCode} (h : acceptError i s = some code) :
    code ≠ .none := by
  unfold acceptError at h
  split_ifs at h <;> simp_all <;> subst h <;> decide

/-- A refused word reports a code other than NONE (30_encoding.md R309). -/
theorem decode_refuse_ne_none {w : Word} {code : ErrCode} (h : decode w = .refuse code) : code ≠ .none := by
  unfold decode at h
  split_ifs at h
  · cases h; decide
  · split at h
    · cases h; decide
    · split_ifs at h <;> cases h <;> decide

/-- What a CMD write can do (60_exceptions.md R602). -/
theorem submit_cases (s : State) (w : Word) :
    (s.busy = true ∧ s.submit w = s.drop) ∨
    (s.busy = false ∧ ∃ code, code ≠ .none ∧ s.submit w = s.refuse code) ∨
    (s.busy = false ∧ ∃ i, decode w = .cmd i ∧ acceptError i s = none ∧ s.submit w = s.accept i) := by
  unfold State.submit
  cases hb : s.busy with
  | true => exact .inl ⟨rfl, by simp⟩
  | false =>
    right
    simp only [Bool.false_eq_true, if_false, true_and]
    split
    · rename_i code hd
      exact .inl ⟨code, decode_refuse_ne_none hd, rfl⟩
    · rename_i i hd
      split
      · rename_i code ha
        exact .inl ⟨code, acceptError_ne_none ha, rfl⟩
      · rename_i ha
        exact .inr ⟨i, hd, ha, rfl⟩

/-! ### Writing a result -/

@[simp] theorem resultLimbs_length (m n d : Nat) : (resultLimbs m n d).length = n := by
  simp [resultLimbs]

/-- The limbs of a result below its length are those of the magnitude (10_state.md R114). -/
theorem resultLimbs_take (m n d : Nat) (h : nlen m ≤ n) :
    (resultLimbs m n d).take (nlen m) = (List.range (nlen m)).map (limbOf m) := by
  apply List.ext_getElem
  · simp [h]
  · intro k h1 h2
    have : k < nlen m := by simpa using h2
    simp [resultLimbs, this]

/-- A magnitude that fits is the value of R after Finish, in nlen limbs (10_state.md R114). -/
theorem finish_operand (s : State) (m : Nat) (sg : Bool) (h : nlen m ≤ s.cfg.rmax) (hr : s.cfg.rmax < 65536) :
    (s.finish m sg).r.operand = (List.range (nlen m)).map (limbOf m) := by
  have : nlen m % 65536 = nlen m := Nat.mod_eq_of_lt (lt_of_le_of_lt h hr)
  simp [BigReg.operand, this, resultLimbs_take _ _ _ h]

theorem finish_value (s : State) (m : Nat) (sg : Bool) (h : nlen m ≤ s.cfg.rmax) (hr : s.cfg.rmax < 65536) :
    (s.finish m sg).r.value = m := by
  rw [BigReg.value, finish_operand s m sg h hr, limbsVal_limbOf_nlen]

theorem finish_len (s : State) (m : Nat) (sg : Bool) (h : nlen m ≤ s.cfg.rmax) (hr : s.cfg.rmax < 65536) :
    (s.finish m sg).r.len.toNat = nlen m := by
  simpa using Nat.mod_eq_of_lt (lt_of_le_of_lt h hr)

/-- LMAX <= 32767, so RMAX fits a length field (00_scope.md R8, R9). -/
theorem Config.rmax_lt {c : Config} (h : c.wf = true) : c.rmax < 65536 := by
  simp [Config.wf] at h
  unfold Config.rmax
  omega

theorem Config.lmax_pos {c : Config} (h : c.wf = true) : 1 ≤ c.lmax := by
  simp [Config.wf] at h
  omega

@[simp] theorem drawLimbs_length (d n : Nat) : (drawLimbs d n).length = n := by
  simp [drawLimbs]

/-- The operand of a register no longer than its file has LEN limbs (10_state.md R113). -/
theorem operand_length {x : BigReg} {n : Nat} (hl : x.limbs.length = n) (h : x.len.toNat ≤ n) :
    x.operand.length = x.len.toNat := by
  simp [BigReg.operand, hl, h]

/-- A move keeps the size of the file it writes (43_transfer.md R556). -/
theorem moveFrom_length {x r : BigReg} {n m : Nat} (hx : x.limbs.length = n) (hr : r.limbs.length = m)
    (hn : r.len.toNat ≤ n) (hm : r.len.toNat ≤ m) : (x.moveFrom r).limbs.length = n := by
  simp [BigReg.moveFrom, operand_length hr hm, hx]
  omega

@[simp] theorem writeLimb_length (x : BigReg) (n i : Nat) (v : Word) :
    (x.writeLimb n i v).limbs.length = x.limbs.length := by
  unfold BigReg.writeLimb
  split <;> simp

@[simp] theorem writeLen_limbs (x : BigReg) (v : Word) : (x.writeLen v).limbs = x.limbs := rfl

theorem writeLen_limbs_length (x : BigReg) (v : Word) : (x.writeLen v).limbs.length = x.limbs.length := rfl

/-! ### A command (60_exceptions.md R602 to R604) -/

/-- A command is refused with its first failing check, or its effect is completed. -/
theorem command_cases (i : Instr) (f : State → State) (s : State) :
    (∃ code, acceptError i s = some code ∧ command i f s = .next (s.refuse code)) ∨
    (acceptError i s = none ∧ command i f s = .next (f s).complete) := by
  unfold command
  cases h : acceptError i s with
  | some code => exact .inl ⟨code, rfl, rfl⟩
  | none => exact .inr ⟨rfl, rfl⟩

theorem command_of_accepted {i : Instr} {s : State} (f : State → State) (h : acceptError i s = none) :
    command i f s = .next (f s).complete := by
  simp [command, h]

theorem command_of_refused {i : Instr} {s : State} {code : ErrCode} (f : State → State)
    (h : acceptError i s = some code) : command i f s = .next (s.refuse code) := by
  simp [command, h]

/-- What an accepted command writes before it completes: nothing (NOP), an operand register (MOVRA, MOVRB), or R with
CMP, and SHOUT for SHR (10_state.md R117). The magnitude it writes to R fits there (40_arithmetic.md R405, 42_shift.md
R504). -/
def Writes (i : Instr) (s u : State) : Prop :=
  (i = .nop ∧ u = s) ∨
  (i = .movra ∧ u = s.setA (s.a.moveFrom s.r)) ∨
  (i = .movrb ∧ u = s.setB (s.b.moveFrom s.r)) ∨
  (i.writesR = true ∧ ∃ m sg c v, u = ((s.finish m sg).setShout v).setCmp c ∧ (v = s.shout ∨ ∃ n, i = .shr n) ∧
    (s.Ready → nlen m ≤ s.cfg.rmax))

theorem nlen_le_rmax_of_limbs {s : State} {xs : List Limb} (hc : s.cfg.wf = true)
    (h : xs.length ≤ s.cfg.lmax + 1 ∨ xs.length ≤ s.cfg.lmax + s.cfg.lmax) : nlen (limbsVal xs) ≤ s.cfg.rmax := by
  have := nlen_limbsVal_le xs
  have := Config.lmax_pos hc
  unfold Config.rmax
  omega

theorem accepted_lengths {i : Instr} {s : State} (h : acceptError i s = none) (hr : s.Ready) :
    (i.readsA = true → s.a.operand.length ≤ s.cfg.lmax) ∧ (i.readsB = true → s.b.operand.length ≤ s.cfg.lmax) := by
  have hl := (acceptError_eq_none_iff i s).1 h
  obtain ⟨-, ha, hb, -⟩ := hr
  constructor <;> intro hi
  · rw [operand_length ha (hl.2.1 hi)]; exact hl.2.1 hi
  · rw [operand_length hb (hl.2.2.1 hi)]; exact hl.2.2.1 hi

/-- Say once what a command that answers a next state has done. -/
theorem exec_cases (i : Instr) (s : State) :
    (∃ code, acceptError i s = some code ∧ exec i s = .next (s.refuse code)) ∨
    (acceptError i s = none ∧ ∃ u, Writes i s u ∧ exec i s = .next u.complete) := by
  have key : ∀ f : State → State, exec i s = command i f s →
      (acceptError i s = none → Writes i s (f s)) →
      (∃ code, acceptError i s = some code ∧ exec i s = .next (s.refuse code)) ∨
      (acceptError i s = none ∧ ∃ u, Writes i s u ∧ exec i s = .next u.complete) := by
    intro f he hw
    rcases command_cases i f s with ⟨code, ha, hc⟩ | ⟨ha, hc⟩
    · exact .inl ⟨code, ha, he.trans hc⟩
    · exact .inr ⟨ha, f s, hw ha, he.trans hc⟩
  have put : ∀ (m : Nat) (sg : Bool) (c : Cmp), i.writesR = true → (s.Ready → nlen m ≤ s.cfg.rmax) →
      Writes i s ((s.finish m sg).setCmp c) := fun m sg c hi hm =>
    .inr (.inr (.inr ⟨hi, m, sg, c, s.shout, rfl, .inl rfl, hm⟩))
  have add : acceptError i s = none → i.readsA = true → i.readsB = true → s.Ready →
      nlen (addMag s.a.operand s.b.operand) ≤ s.cfg.rmax ∧ nlen (subMag s.a.operand s.b.operand) ≤ s.cfg.rmax ∧
      nlen (subMag s.b.operand s.a.operand) ≤ s.cfg.rmax ∧ nlen (mulMag s.a.operand s.b.operand) ≤ s.cfg.rmax ∧
      ∀ f, nlen (limbsVal (mapLanes f s.a.operand s.b.operand)) ≤ s.cfg.rmax := by
    intro h hA hB hr
    have hl := accepted_lengths h hr
    have h1 := hl.1 hA
    have h2 := hl.2 hB
    have h3 := mulRows_length s.b.operand s.a.operand (List.replicate s.b.operand.length 0) (by simp)
    refine ⟨?_, ?_, ?_, ?_, fun f => ?_⟩ <;> apply nlen_le_rmax_of_limbs hr.1
    · simp; omega
    · simp; omega
    · simp; omega
    · rw [h3]; omega
    · simp; omega
  have copyA : acceptError i s = none → i.readsA = true → s.Ready → nlen s.a.value ≤ s.cfg.rmax ∧
      (∀ n, nlen (limbsVal (shlLimbs n s.a.operand)) ≤ s.cfg.rmax) ∧
      ∀ n, nlen (limbsVal (shrLimbs n s.a.operand)) ≤ s.cfg.rmax := by
    intro h hA hr
    have h1 := (accepted_lengths h hr).1 hA
    refine ⟨nlen_le_rmax_of_limbs hr.1 (by omega), fun n => ?_, fun n => ?_⟩ <;>
      apply nlen_le_rmax_of_limbs hr.1 <;> simp only [shlLimbs_length, shrLimbs_length] <;> omega
  have sum : ∀ sa sb, acceptError i s = none → i.readsA = true → i.readsB = true → s.Ready →
      nlen (signedSum s.a.operand s.b.operand sa sb).1 ≤ s.cfg.rmax := by
    intro sa sb h hA hB hr
    obtain ⟨h1, h2, h3, -⟩ := add h hA hB hr
    unfold signedSum
    split
    · exact h1
    · split
      · simp
      · exact h2
      · exact h3
  cases i with
  | nop => refine key _ (execNop.eq_1 s) ?_; exact fun _ => .inl ⟨rfl, rfl⟩
  | addm => refine key _ (execAddm.eq_1 s) ?_; exact fun h => put _ _ _ rfl fun hr => (add h rfl rfl hr).1
  | subm =>
    refine key _ (execSubm.eq_1 s) ?_
    refine fun h => put _ _ _ rfl fun hr => ?_
    obtain ⟨-, h2, h3, -⟩ := add h rfl rfl hr
    unfold diffMag
    split
    · simp
    · exact h2
    · exact h3
  | add => refine key _ (execAdd.eq_1 s) ?_; exact fun h => put _ _ _ rfl (sum _ _ h rfl rfl)
  | sub => refine key _ (execSub.eq_1 s) ?_; exact fun h => put _ _ _ rfl (sum _ _ h rfl rfl)
  | mul => refine key _ (execMul.eq_1 s) ?_; exact fun h => put _ _ _ rfl fun hr => (add h rfl rfl hr).2.2.2.1
  | and => refine key _ (execAnd.eq_1 s) ?_; exact fun h => put _ _ _ rfl fun hr => (add h rfl rfl hr).2.2.2.2 _
  | or => refine key _ (execOr.eq_1 s) ?_; exact fun h => put _ _ _ rfl fun hr => (add h rfl rfl hr).2.2.2.2 _
  | xor => refine key _ (execXor.eq_1 s) ?_; exact fun h => put _ _ _ rfl fun hr => (add h rfl rfl hr).2.2.2.2 _
  | shl n => refine key _ (execShl.eq_1 n s) ?_; exact fun h => put _ _ _ rfl fun hr => (copyA h rfl hr).2.1 _
  | shr n =>
    refine key _ (execShr.eq_1 n s) ?_
    exact fun h =>
      .inr (.inr (.inr ⟨rfl, _, _, _, _, rfl, .inr ⟨n, rfl⟩, fun hr => (copyA h rfl hr).2.2 _⟩))
  | neg => refine key _ (execNeg.eq_1 s) ?_; exact fun h => put _ _ _ rfl fun hr => (copyA h rfl hr).1
  | copy => refine key _ (execCopy.eq_1 s) ?_; exact fun h => put _ _ _ rfl fun hr => (copyA h rfl hr).1
  | movra => refine key _ (execMovra.eq_1 s) ?_; exact fun _ => .inr (.inl ⟨rfl, rfl⟩)
  | movrb => refine key _ (execMovrb.eq_1 s) ?_; exact fun _ => .inr (.inr (.inl ⟨rfl, rfl⟩))

/-- Every command is its checks and its own effect, one function of the state. -/
theorem exec_eq_command (i : Instr) : ∃ f : State → State, ∀ s, exec i s = command i f s := by
  cases i <;> exact ⟨_, fun _ => rfl⟩

theorem exec_of_refused {i : Instr} {s : State} {code : ErrCode} (h : acceptError i s = some code) :
    exec i s = .next (s.refuse code) := by
  obtain ⟨f, hf⟩ := exec_eq_command i
  rw [hf, command_of_refused f h]

/-! ### The limb files keep their sizes -/

/-- Writing what an accepted command writes keeps the limb files' sizes. -/
theorem writes_keeps_memory {i : Instr} {s u : State} (ha : acceptError i s = none) (h : Writes i s u)
    (hm : Memory.wf s) : Memory.wf u := by
  have hl := ((acceptError_eq_none_iff i s).1 ha).2.2.2
  obtain ⟨h1, h2, h3⟩ := hm
  have hb : s.r.len.toNat ≤ s.cfg.lmax → s.r.len.toNat ≤ s.cfg.rmax := by unfold Config.rmax; omega
  rcases h with ⟨-, rfl⟩ | ⟨rfl, rfl⟩ | ⟨rfl, rfl⟩ | ⟨-, m, sg, c, v, rfl, -, -⟩
  · exact ⟨h1, h2, h3⟩
  · exact ⟨moveFrom_length h1 h3 (hl rfl) (hb (hl rfl)), h2, h3⟩
  · exact ⟨h1, moveFrom_length h2 h3 (hl rfl) (hb (hl rfl)), h3⟩
  · exact ⟨h1, h2, by simp⟩

/-- Every command keeps the limb files' sizes. -/
theorem exec_keeps_memory {i : Instr} {s t : State} (h : exec i s = .next t) (hm : Memory.wf s) : Memory.wf t := by
  rcases exec_cases i s with ⟨code, -, he⟩ | ⟨ha, u, hw, he⟩
  · obtain rfl : s.refuse code = t := by simpa [he] using h
    exact hm
  · obtain rfl : u.complete = t := by simpa [he] using h
    exact (writes_keeps_memory ha hw hm : Memory.wf u)

theorem toReset_memory (s : State) : Memory.wf s.toReset := by
  simp [Memory.wf]

theorem reset_memory : Memory.wf State.reset := by
  simp [Memory.wf, State.reset, State.resetWith]

end Sys2Proof.Machine
end

