-- ==== Sys2Proof/Laws/PerInstr.lean ====
section
/-! SUPPORT. Laws about every command as it is written, one lemma per constructor: the family ReservedZero says that
the reserved fields of every command word are 0 and OP and SHAMT are the command's (30_encoding.md R300, R303). -/

namespace Sys2Proof.Laws.ReservedZero

open Sys2Proof

/-- The fields of the command word of `i`. -/
def Statement (i : Instr) : Prop :=
  fieldRsv1 (encode i) = 0 ∧ fieldRsv0 (encode i) = 0 ∧ fieldOp (encode i) = i.opcode ∧
    fieldShamt (encode i) = i.shamt

theorem fields (i : Instr) : Statement i := by
  have h1 := i.shamt.isLt
  have h2 := i.opcode.isLt
  refine ⟨?_, ?_, ?_, ?_⟩ <;> apply BitVec.eq_of_toNat_eq <;> simp [encode_toNat] <;> omega

theorem nop : Statement .nop := fields _
theorem addm : Statement .addm := fields _
theorem subm : Statement .subm := fields _
theorem add : Statement .add := fields _
theorem sub : Statement .sub := fields _
theorem mul : Statement .mul := fields _
theorem and : Statement .and := fields _
theorem or : Statement .or := fields _
theorem xor : Statement .xor := fields _
theorem shl (n : BitVec 8) : Statement (.shl n) := fields _
theorem shr (n : BitVec 8) : Statement (.shr n) := fields _
theorem neg : Statement .neg := fields _
theorem copy : Statement .copy := fields _
theorem movra : Statement .movra := fields _
theorem movrb : Statement .movrb := fields _

end Sys2Proof.Laws.ReservedZero
end

