-- ==== Sys2Proof/Laws/Step.lean ====
section
/-! SUPPORT. One lemma per operation of the bus, the datapath and the step that says everything it can do
(Machine/Bus.lean, Machine/Datapath.lean, Machine/Step.lean). -/

namespace Sys2Proof.Machine

open Sys2Proof

/-! ### The bus -/

/-- A read changes the read data, and the draw counter when bits of the register are unspecified. -/
theorem busRead_eq (s : State) (off : Offset) :
    s.busRead off = { s with rdata := (s.busRead off).rdata, draws := (s.busRead off).draws } := by
  simp only [State.busRead]
  split <;> rfl

/-- A read of a register none of whose bits are unspecified is exact and draws nothing. -/
theorem busRead_exact {s : State} {off : Offset} (h : s.unspecified (decodeOffset off) = 0) :
    s.busRead off = { s with rdata := s.regWord (decodeOffset off) } := by
  simp [State.busRead, h]

/-- While the block is idle every read is exact (70_reset_and_hazards.md R712). -/
theorem busRead_idle {s : State} (off : Offset) (h : s.inflight = none) :
    s.busRead off = { s with rdata := s.regWord (decodeOffset off) } :=
  busRead_exact (by simp [State.unspecified, h])

/-- What a write to the window can do (20_memory.md R213, 70_reset_and_hazards.md R710, R711). -/
theorem busWrite_cases (s : State) (off : Offset) (v : Word) :
    s.busWrite off v = s ∨ (s.busy = true ∧ s.busWrite off v = s.drop) ∨
    (decodeOffset off = .ctrl ∧ v[1] = true ∧ s.busWrite off v = s.toReset) ∨
    (decodeOffset off = .ctrl ∧ v[1] = false ∧ s.busWrite off v = { s with ie := v[0] }) ∨
    (decodeOffset off = .status ∧ s.busWrite off v = s.writeStatus v) ∨
    (decodeOffset off = .cmd ∧ s.busWrite off v = s.submit v) ∨
    (s.busy = false ∧ ∃ x : BigReg, x.limbs.length = s.a.limbs.length ∧ s.busWrite off v = s.setA x) ∨
    (s.busy = false ∧ ∃ x : BigReg, x.limbs.length = s.b.limbs.length ∧ s.busWrite off v = s.setB x) := by
  unfold State.busWrite
  cases hd : decodeOffset off with
  | id => simp [State.writeReg]
  | param => simp [State.writeReg]
  | lenr => simp [State.writeReg]
  | shout => simp [State.writeReg]
  | limbR i => simp [State.writeReg]
  | reserved => simp [State.writeReg]
  | ctrl =>
    cases hv : v[1]
    · exact .inr (.inr (.inr (.inl ⟨rfl, rfl, by simp [State.writeReg, State.writeCtrl, hv]⟩)))
    · exact .inr (.inr (.inl ⟨rfl, rfl, by simp [State.writeReg, State.writeCtrl, hv]⟩))
  | cmd => simp [State.writeReg]
  | status => simp [State.writeReg]
  | lena =>
    cases hb : s.busy
    · simp only [State.writeReg, hb, Bool.false_eq_true, if_false]
      exact .inr (.inr (.inr (.inr (.inr (.inr (.inl ⟨trivial, _, writeLen_limbs_length _ _, rfl⟩))))))
    · simp [State.writeReg, hb]
  | lenb =>
    cases hb : s.busy
    · simp only [State.writeReg, hb, Bool.false_eq_true, if_false]
      exact .inr (.inr (.inr (.inr (.inr (.inr (.inr ⟨trivial, _, writeLen_limbs_length _ _, rfl⟩))))))
    · simp [State.writeReg, hb]
  | limbA i =>
    cases hb : s.busy
    · simp only [State.writeReg, hb, Bool.false_eq_true, if_false]
      exact .inr (.inr (.inr (.inr (.inr (.inr (.inl ⟨trivial, _, writeLimb_length _ _ _ _, rfl⟩))))))
    · simp [State.writeReg, hb]
  | limbB i =>
    cases hb : s.busy
    · simp only [State.writeReg, hb, Bool.false_eq_true, if_false]
      exact .inr (.inr (.inr (.inr (.inr (.inr (.inr ⟨trivial, _, writeLimb_length _ _ _ _, rfl⟩))))))
    · simp [State.writeReg, hb]

/-- Every write keeps the limb files' sizes. -/
theorem busWrite_keeps_memory (s : State) (off : Offset) (v : Word) (hm : Memory.wf s) :
    Memory.wf (s.busWrite off v) := by
  obtain ⟨h1, h2, h3⟩ := hm
  rcases busWrite_cases s off v with h | ⟨-, h⟩ | ⟨-, -, h⟩ | ⟨-, -, h⟩ | ⟨-, h⟩ | ⟨-, h⟩ | ⟨-, x, hx, h⟩ |
    ⟨-, x, hx, h⟩ <;> rw [h]
  · exact ⟨h1, h2, h3⟩
  · exact ⟨h1, h2, h3⟩
  · exact toReset_memory s
  · exact ⟨h1, h2, h3⟩
  · exact ⟨h1, h2, h3⟩
  · rcases submit_cases s v with ⟨-, h⟩ | ⟨-, _, -, h⟩ | ⟨-, _, -, -, h⟩ <;> rw [h] <;> exact ⟨h1, h2, h3⟩
  · exact ⟨hx.trans h1, h2, h3⟩
  · exact ⟨h1, hx.trans h2, h3⟩

/-- What an access that answers a next state has done. -/
theorem hostStep_cases {x : Access} {s t : State} (h : hostStep x s = .next t) :
    (x = .idle ∧ t = s) ∨ (∃ b, x = .rst b ∧ t = s.setRst b) ∨
    (∃ addr off, x = .read addr ∧ windowOffset s.cfg addr = some off ∧ s.rst = false ∧ t = s.busRead off) ∨
    (∃ addr v off, x = .write addr v ∧ windowOffset s.cfg addr = some off ∧ s.rst = false ∧ t = s.busWrite off v) := by
  cases x with
  | idle => exact .inl ⟨rfl, by simpa [hostStep] using h.symm⟩
  | rst b => exact .inr (.inl ⟨b, rfl, by simpa [hostStep] using h.symm⟩)
  | narrow addr => simp [hostStep] at h
  | read addr =>
    simp only [hostStep] at h
    split at h
    · simp at h
    · rename_i off hw
      cases hr : s.rst
      · exact .inr (.inr (.inl ⟨addr, off, rfl, hw, rfl, by simpa [hr] using h.symm⟩))
      · simp [hr] at h
  | write addr v =>
    simp only [hostStep] at h
    split at h
    · simp at h
    · rename_i off hw
      cases hr : s.rst
      · exact .inr (.inr (.inr ⟨addr, v, off, rfl, hw, rfl, by simpa [hr] using h.symm⟩))
      · simp [hr] at h

theorem setRst_cases (s : State) (b : Bool) :
    (b = true ∧ s.setRst b = { s.toReset with rst := true }) ∨
    (b = false ∧ s.rst = true ∧ s.setRst b = { s.toReset with rst := false }) ∨
    (b = false ∧ s.rst = false ∧ s.setRst b = s) := by
  unfold State.setRst
  cases b <;> cases s.rst <;> simp

/-- Every access keeps the limb files' sizes. -/
theorem hostStep_keeps_memory {x : Access} {s t : State} (h : hostStep x s = .next t) (hm : Memory.wf s) :
    Memory.wf t := by
  rcases hostStep_cases h with ⟨-, rfl⟩ | ⟨b, -, rfl⟩ | ⟨_, off, -, -, -, rfl⟩ | ⟨_, v, off, -, -, -, rfl⟩
  · exact hm
  · rcases setRst_cases s b with ⟨-, h⟩ | ⟨-, -, h⟩ | ⟨-, -, h⟩ <;> rw [h]
    · exact toReset_memory s
    · exact toReset_memory s
    · exact hm
  · rw [busRead_eq]; exact hm
  · exact busWrite_keeps_memory s off v hm

/-! ### The datapath and the step -/

/-- The datapath completes the in-flight command, or has nothing to do. -/
theorem datapathStep_cases (s : State) :
    (s.inflight = none ∧ datapathStep s = .next s) ∨ (∃ i, s.inflight = some i ∧ datapathStep s = exec i s) := by
  unfold datapathStep
  cases h : s.inflight with
  | none => exact .inl ⟨rfl, rfl⟩
  | some i => exact .inr ⟨i, rfl, rfl⟩

/-- What a step that answers a next state has done. -/
theorem step_cases {s t : State} (h : step s = .next t) :
    (s.inputs = [] ∧ datapathStep s = .next t) ∨
    (∃ u rest u', s.inputs = u :: rest ∧ hostStep u.access { s with inputs := rest } = .next u' ∧
      ((u.datapath = false ∧ t = u') ∨ (u.datapath = true ∧ datapathStep u' = .next t))) := by
  unfold step at h
  cases hi : s.inputs with
  | nil => exact .inl ⟨rfl, by simpa [hi] using h⟩
  | cons u rest =>
    right
    simp only [hi, takeTurn] at h
    split at h
    · rename_i u' hu
      refine ⟨u, rest, u', rfl, hu, ?_⟩
      cases hd : u.datapath
      · exact .inl ⟨rfl, by simpa [hd] using h.symm⟩
      · exact .inr ⟨rfl, by simpa [hd] using h⟩
    · simp at h
    · simp at h

/-- The offset of a register's host address is that register's offset, when it is in the window. -/
theorem windowOffset_cmd (cfg : Config) : windowOffset cfg (cfg.base + 0x0C) = some 0x0000C := by
  simp [windowOffset]

end Sys2Proof.Machine
end

