-- ==== Sys2Proof/Machine/Pseudo.lean ====
section
/-! DEFINITION. The host's side (30_encoding.md R311, R312): host programs as lines, the exact expansion of each
pseudo-instruction, and the accesses a program comes to, line by line, from what its reads return. When the datapath
steps is the schedule's and no part of a program (70_reset_and_hazards.md R713). -/

namespace Sys2Proof.Machine

open Sys2Proof

/-! ### Lines (R311) -/

/-- A line of a host program: a host access, or one of the two things R312's expansions do with the value read. -/
inductive Line where
  /-- `wr NAME, value` (R311). -/
  | wr (name : RegName) (v : Word)
  /-- `rd NAME` (R311). -/
  | rd (name : RegName)
  /-- `L: rd STATUS` has just been made: repeat from L while bit 0 (BUSY) of the value read is 1 (R312, `wait`). -/
  | repeatWhileBusy
  /-- `rd LENR` has just been made: for i in [0, LEN_R): `rd R[i]` (R312, `rdr`). -/
  | rdResult
deriving DecidableEq, Repr

/-- A command line stands for `wr CMD, word` (R311). -/
def commandLine (i : Instr) : Line := .wr .cmd (encode i)

/-! ### The pseudo-instructions (R312) -/

/-- `wait`: `L: rd STATUS`, repeated from L while BUSY is read as 1. -/
def wait : List Line := [.rd .status, .repeatWhileBusy]

/-- `clr`: clears DONE, ERR with ERRCODE, and OVR. -/
def clr : List Line := [.wr .status 0x0000000E]

/-- The LENA or LENB word of an integer in canonical form. -/
def lenWordOf (v : Int) : Word :=
  BitVec.ofBool (decide (v < 0)) ++ (0 : BitVec 15) ++ BitVec.ofNat 16 (nlen v.natAbs)

/-- The writes that load an integer into an operand register: its limbs, then the length register. -/
def loadLines (limb : Nat → RegName) (len : RegName) (v : Int) : List Line :=
  (List.range (nlen v.natAbs)).map (fun i => .wr (limb i) ((limbOf v.natAbs i).setWidth 32)) ++
    [.wr len (lenWordOf v)]

/-- `lda v`; it needs nlen(abs v) <= LMAX. -/
def lda (v : Int) : List Line := loadLines .limbA .lena v

/-- `ldb v`; it needs nlen(abs v) <= LMAX. -/
def ldb (v : Int) : List Line := loadLines .limbB .lenb v

/-- `rdr`: `wait`, `rd LENR`, and then R[i] for i in [0, LEN_R). -/
def rdr : List Line := wait ++ [.rd .lenr, .rdResult]

/-- `cmpm` is SUBM. -/
def cmpm : List Line := [commandLine .subm]

/-- The chunks of `shlx` and `shrx`: k div 15 chunks of 15, and one of k mod 15 if that is nonzero. -/
def shiftChunks (k : Nat) : List (BitVec 8) :=
  List.replicate (k / 15) 15 ++ if k % 15 = 0 then [] else [BitVec.ofNat 8 (k % 15)]

/-- For each chunk the shift and `wait`, and between two chunks MOVRA and `wait`. -/
def shiftChain (op : BitVec 8 → Instr) : List (BitVec 8) → List Line
  | [] => []
  | [c] => commandLine (op c) :: wait
  | c :: d :: rest =>
    commandLine (op c) :: (wait ++ commandLine .movra :: (wait ++ shiftChain op (d :: rest)))

/-- `shlx #k`: COPY alone when k = 0. -/
def shlx (k : Nat) : List Line := if k = 0 then [commandLine .copy] else shiftChain .shl (shiftChunks k)

/-- `shrx #k`: as `shlx`, with SHR. -/
def shrx (k : Nat) : List Line := if k = 0 then [commandLine .copy] else shiftChain .shr (shiftChunks k)

/-! ### Running a host program -/

/-- MemRead of a register at the window's base. -/
def readOf (cfg : Config) (name : RegName) : Access := .read (cfg.base + name.offset.toNat)

/-- MemWrite of a register at the window's base. -/
def writeOf (cfg : Config) (name : RegName) (v : Word) : Access := .write (cfg.base + name.offset.toNat) v

/-- The next access of a host program and the lines after it, when the last read returned `v`; none at its end. -/
def nextAccess (cfg : Config) : List Line → Word → Option (Access × List Line)
  | [], _ => none
  | .wr name w :: rest, _ => some (writeOf cfg name w, rest)
  | .rd name :: rest, _ => some (readOf cfg name, rest)
  | .repeatWhileBusy :: rest, v =>
    if v[0] then some (readOf cfg .status, .repeatWhileBusy :: rest) else nextAccess cfg rest v
  | .rdResult :: rest, v =>
    match (v.extractLsb' 0 16).toNat with
    | 0 => nextAccess cfg rest v
    | n + 1 => some (readOf cfg (.limbR 0), (List.range n).map (fun i => .rd (.limbR (i + 1))) ++ rest)

/-- The turns a host program comes to from state `s`, one for each bit of `schedule` until the program ends: its next
access, and whether the datapath steps after it. -/
def hostTurns : List Bool → List Line → State → List Turn
  | [], _, _ => []
  | d :: schedule, lines, s =>
    match nextAccess s.cfg lines s.rdata with
    | none => []
    | some (x, rest) =>
      let t : Turn := { access := x, datapath := d }
      t :: (match takeTurn t s with
        | .next s' => hostTurns schedule rest s'
        | .fault _ | .refused _ => [])

/-- The line an assembler accepts for a command (R311). -/
def asmLine : Instr → String
  | .nop => "NOP"
  | .addm => "ADDM"
  | .subm => "SUBM"
  | .add => "ADD"
  | .sub => "SUB"
  | .mul => "MUL"
  | .and => "AND"
  | .or => "OR"
  | .xor => "XOR"
  | .shl n => "SHL #" ++ toString n.toNat
  | .shr n => "SHR #" ++ toString n.toNat
  | .neg => "NEG"
  | .copy => "COPY"
  | .movra => "MOVRA"
  | .movrb => "MOVRB"

end Sys2Proof.Machine
end

