-- ==== Sys2Proof/Tests/Slice0.lean ====
section
/-! SUPPORT. Tests of the model on the spec's own encodings and vectors, and for each statement with hypotheses a
witness that meets them. Expected values are those of 95_test_vectors.md (the vector's id stands in the comment) or of
the rule cited. -/

namespace Sys2Proof.Tests

open Sys2Proof Sys2Proof.Machine

/-! ### Well-formedness -/

theorem test_wf_refuses_shl_16 : Instr.wf (.shl 16) = false := by decide
theorem test_wf_refuses_shr_255 : Instr.wf (.shr 255) = false := by decide
theorem test_wf_accepts_shr_15 : Instr.wf (.shr 15) = true := by decide
theorem test_wf_refuses_lmax_0 : Config.wf { lmax := 0, base := 0 } = false := by decide
theorem test_wf_refuses_lmax_32768 : Config.wf { lmax := 32768, base := 0 } = false := by decide
theorem test_wf_refuses_base_in_a_window : Config.wf { lmax := 1, base := 0x80000 } = false := by decide
theorem test_wf_accepts_largest_lmax : Config.wf { lmax := 32767, base := 0x300000 } = true := by decide

/-! ### Decoding: each word written out as SHAMT, RSV0 and OP (R300, R303) -/

theorem test_decode_nop : decode 0b00000000000000000000000000000000 = .cmd .nop := by decide
theorem test_decode_addm : decode 0b00000000000000000000000000000001 = .cmd .addm := by decide
theorem test_decode_subm : decode 0b00000000000000000000000000000010 = .cmd .subm := by decide
theorem test_decode_add : decode 0b00000000000000000000000000000011 = .cmd .add := by decide
theorem test_decode_sub : decode 0b00000000000000000000000000000100 = .cmd .sub := by decide
theorem test_decode_mul : decode 0b00000000000000000000000000000101 = .cmd .mul := by decide
theorem test_decode_and : decode 0b00000000000000000000000000000110 = .cmd .and := by decide
theorem test_decode_or : decode 0b00000000000000000000000000000111 = .cmd .or := by decide
theorem test_decode_xor : decode 0b00000000000000000000000000001000 = .cmd .xor := by decide
theorem test_decode_shl_15 : decode 0b00000000000000000000111100001001 = .cmd (.shl 15) := by decide
theorem test_decode_shr_8 : decode 0b00000000000000000000100000001010 = .cmd (.shr 8) := by decide
theorem test_decode_neg : decode 0b00000000000000000000000000001011 = .cmd .neg := by decide
theorem test_decode_copy : decode 0b00000000000000000000000000001100 = .cmd .copy := by decide
theorem test_decode_movra : decode 0b00000000000000000000000000001101 = .cmd .movra := by decide
theorem test_decode_movrb : decode 0b00000000000000000000000000001110 = .cmd .movrb := by decide

/-- The refusals of 95_test_vectors.md L2.5. -/
theorem test_decode_refusals :
    (([0x0000000F, 0x0000001F, 0x00000010, 0x00000020, 0x000000E1, 0x00010001, 0x80000003, 0x00000101, 0x0000FF05,
      0x0000103A, 0x0001100A] : List Word).all fun w => decide (decode w = .refuse .badOpcode)) = true ∧
    (([0x00001009, 0x0000100A, 0x0000FF0A] : List Word).all fun w => decide (decode w = .refuse .badShamt)) = true := by
  decide

/-- Byte j of a word holds bits [8j+7:8j] (R204): SHL #15 as bytes, and what follows it is left over. -/
theorem test_decode_bytes : decodeBytes [0x09, 0x0F, 0x00, 0x00, 0xAA] = some (.cmd (.shl 15), [0xAA]) := by decide
theorem test_decode_three_bytes : decodeBytes [0x09, 0x0F, 0x00] = none := by decide
theorem test_decode_table_word : decodeTableWord 32 0x0000080A = some (.shr 8) := by decide
theorem test_decode_table_word_refused : decodeTableWord 32 0x00001009 = none := by decide

/-! ### Small states -/

/-- A machine with LMAX = 4 whose window is at 2^20. -/
def cfg4 : Config := { lmax := 4, base := 0x100000 }

/-- A register of `size` cells that holds the limbs given, limb 0 first, with LEN their number. -/
def regOf (size : Nat) (limbs : List Limb) (sign : Bool) : BigReg where
  limbs := limbs ++ List.replicate (size - limbs.length) 0x5555
  len := BitVec.ofNat 16 limbs.length
  sign := sign

/-- An idle block with operands A and B and result R. -/
def block (a : List Limb) (sa : Bool) (b : List Limb) (sb : Bool) (r : List Limb) (sr : Bool) : State where
  cfg := cfg4
  a := regOf 4 a sa
  b := regOf 4 b sb
  r := regOf 8 r sr
  shout := 0x0777
  ie := true
  done := false
  err := false
  ovr := false
  cmp := .none
  errcode := .none
  inflight := none
  rst := false
  inputs := []
  rdata := 0
  draws := 0

/-- The block after one step that fetches and runs the command word `w`: LENR, STATUS, SHOUT and the LEN_R limbs of R. -/
def after (s : State) (w : Nat) : Option (Word × Word × Limb × List Limb) :=
  match step (s.withFetchWord 32 w) with
  | .next t => some (t.r.lenWord, t.statusWord, t.shout, t.r.operand)
  | .fault _ => none
  | .refused _ => none

/-! ### Commands, one step each: LENR, STATUS, SHOUT, R -/

/-- A1. -/
theorem test_addm_carry : after (block [0x7FFF, 0x7FFF] false [0x0001] false [] false) 0x01 =
    some (0x00000003, 0x00000042, 0x0777, [0x0000, 0x0000, 0x0001]) := by decide
/-- A4. -/
theorem test_addm_ignores_signs : after (block [0x0005] true [0x0003] true [] false) 0x01 =
    some (0x00000001, 0x00000042, 0x0777, [0x0008]) := by decide
/-- A6. -/
theorem test_subm_b_larger : after (block [0x0001] false [0x0000, 0x0000, 0x0001] false [] false) 0x02 =
    some (0x00000002, 0x00000082, 0x0777, [0x7FFF, 0x7FFF]) := by decide
/-- A9. -/
theorem test_subm_leading_zero_limb : after (block [0x0007] false [0x0007, 0x0000] false [] false) 0x02 =
    some (0x00000000, 0x000000D2, 0x0777, []) := by decide
/-- A11. -/
theorem test_add_different_signs : after (block [0x007B] false [0x01C8] true [] false) 0x03 =
    some (0x80000001, 0x000000A2, 0x0777, [0x014D]) := by decide
/-- A13. -/
theorem test_add_zero_stored_negative : after (block [] true [0x0005] true [] false) 0x03 =
    some (0x80000001, 0x000000A2, 0x0777, [0x0005]) := by decide
/-- A19. -/
theorem test_sub_equal_negatives : after (block [0x0003] true [0x0003] true [] false) 0x04 =
    some (0x00000000, 0x000000D2, 0x0777, []) := by decide
/-- A20. -/
theorem test_sub_same_sign_sum : after (block [0x0002] true [0x0003] false [] false) 0x04 =
    some (0x80000001, 0x000000A2, 0x0777, [0x0005]) := by decide
/-- A23. -/
theorem test_mul_worked_example : after (block [0x6240, 0x0003] false [0x68B1, 0x75BC] false [] false) 0x05 =
    some (0x00000004, 0x00000002, 0x0777, [0x6E40, 0x716E, 0x3B95, 0x0003]) := by decide
/-- A25. -/
theorem test_mul_largest_limbs : after (block [0x7FFF, 0x7FFF] false [0x7FFF, 0x7FFF] false [] false) 0x05 =
    some (0x00000004, 0x00000002, 0x0777, [0x0001, 0x0000, 0x7FFE, 0x7FFF]) := by decide
/-- B1. -/
theorem test_and_shorter_b : after (block [0x70F0, 0x61E1, 0x0003] false [0x00AA] false [] false) 0x06 =
    some (0x00000001, 0x00000002, 0x0777, [0x00A0]) := by decide
/-- B9. -/
theorem test_and_keeps_the_sign_of_a : after (block [0x1234, 0x5678] true [0x7FFF, 0x7FFF] false [] false) 0x06 =
    some (0x80000002, 0x00000022, 0x0777, [0x1234, 0x5678]) := by decide
/-- B2. -/
theorem test_or_longer_a : after (block [0x70F0, 0x61E1, 0x0003] false [0x00AA] false [] false) 0x07 =
    some (0x00000003, 0x00000002, 0x0777, [0x70FA, 0x61E1, 0x0003]) := by decide
/-- B8. -/
theorem test_or_ignores_the_sign_of_b : after (block [] false [0x0005] true [] false) 0x07 =
    some (0x00000001, 0x00000002, 0x0777, [0x0005]) := by decide
/-- B5. -/
theorem test_xor_with_itself : after (block [0x1234, 0x5678] true [0x1234, 0x5678] true [] false) 0x08 =
    some (0x00000000, 0x00000012, 0x0777, []) := by decide
/-- B6. -/
theorem test_xor_low_limbs_cancel : after (block [0x1234, 0x5678] false [0x1234, 0x5677] false [] false) 0x08 =
    some (0x00000002, 0x00000002, 0x0777, [0x0000, 0x000F]) := by decide
/-- S1. -/
theorem test_shl_worked_example : after (block [0x3BAA, 0x3B99, 0x0003] false [] false [] false) 0x0809 =
    some (0x00000003, 0x00000002, 0x0777, [0x2A00, 0x1977, 0x0377]) := by decide
/-- S4. -/
theorem test_shl_grows : after (block [0x4000] false [] false [] false) 0x0109 =
    some (0x00000002, 0x00000002, 0x0777, [0x0000, 0x0001]) := by decide
/-- S11. -/
theorem test_shr_whole_limb : after (block [0x1234, 0x0567] false [] false [] false) 0x0F0A =
    some (0x00000001, 0x00000002, 0x1234, [0x0567]) := by decide
/-- S13. -/
theorem test_shr_negative_below_one : after (block [0x0003] true [] false [] false) 0x020A =
    some (0x00000000, 0x00000012, 0x0003, []) := by decide
/-- T1. -/
theorem test_neg_positive : after (block [0x007B] false [] false [] false) 0x0B =
    some (0x80000001, 0x00000022, 0x0777, [0x007B]) := by decide
/-- T4. -/
theorem test_neg_unnormalized_zero : after (block [0x0000, 0x0000] true [] false [] false) 0x0B =
    some (0x00000000, 0x00000012, 0x0777, []) := by decide
/-- T5. -/
theorem test_copy_normalizes : after (block [0x0005, 0x0000] true [] false [] false) 0x0C =
    some (0x80000001, 0x00000022, 0x0777, [0x0005]) := by decide
/-- T6. -/
theorem test_copy_signed_zero : after (block [0x0000] true [] false [] false) 0x0C =
    some (0x00000000, 0x00000012, 0x0777, []) := by decide
/-- T11: NOP ends with STATUS = DONE, Z. -/
theorem test_nop : after (block [] false [] false [] false) 0x00 = some (0x00000000, 0x00000012, 0x0777, []) := by decide
/-- T8, with limbs of A above LEN_R kept (R556). -/
theorem test_movra_keeps_upper_limbs :
    (match step ((block [0x1111, 0x2222] true [] false [0x0243] false).withFetchWord 32 0x0D) with
      | .next t => some (t.a.lenWord, t.a.limbs)
      | _ => none) = some (0x00000001, [0x0243, 0x2222, 0x5555, 0x5555]) := by decide
/-- T10: a result longer than LMAX is refused with CAPACITY. -/
theorem test_movra_capacity : after (block [] false [] false [1, 2, 3, 4, 5] false) 0x0D =
    some (0x00000005, 0x00000406, 0x0777, [1, 2, 3, 4, 5]) := by decide
/-- T9. -/
theorem test_movrb_negative :
    (match step ((block [] false [] false [0x014D] true).withFetchWord 32 0x0E) with
      | .next t => some (t.b.lenWord, t.b.operand)
      | _ => none) = some (0x80000001, [0x014D]) := by decide
/-- R601: the exact bound LEN_R = LMAX fits. -/
theorem test_movrb_full :
    (match step ((block [] false [] false [1, 2, 3, 4] false).withFetchWord 32 0x0E) with
      | .next t => some (t.b.lenWord, t.b.limbs)
      | _ => none) = some (0x00000004, [1, 2, 3, 4]) := by decide

/-! ### Refusals and the bus -/

/-- 95 L2.5: SHL #16 is refused with code 2, R unchanged. -/
theorem test_shl_16_refused : after (block [0x0001] false [] false [0x0243] false) 0x1009 =
    some (0x00000001, 0x00000206, 0x0777, [0x0243]) := by decide
/-- 95 L2.5 step 4: both lengths bad give one BAD_LENGTH. -/
theorem test_add_bad_lengths : after { block [] false [] false [0x0243] false with
      a := { limbs := [0, 0, 0, 0], len := 5, sign := false },
      b := { limbs := [0, 0, 0, 0], len := 0xFFFF, sign := true } } 0x03 =
    some (0x00000001, 0x00000306, 0x0777, [0x0243]) := by decide
/-- From the machine's reset, a command is the first step: ADD of two zeros. -/
theorem test_first_step_after_reset : after State.reset 0x03 = some (0x00000000, 0x000000D2, 0x0000, []) := by decide

/-- The read data after a write and then a read, both by offset. -/
def readBack (s : State) (woff roff : Offset) (v : Word) : Word := ((s.busWrite woff v).busRead roff).rdata

/-- M1, M2 with LMAX = 64 (State.reset). -/
theorem test_read_id : (State.reset.busRead 0x00000).rdata = 0x4A534249 := by decide
theorem test_read_param : (State.reset.busRead 0x00004).rdata = 0x010F0040 := by decide
/-- M5, M6. -/
theorem test_limb_keeps_15_bits : readBack (block [1] false [] false [] false) 0x40000 0x40000 0xFFFFFFFF = 0x00007FFF := by
  decide
theorem test_limb_past_the_end : readBack (block [1] false [] false [] false) 0x40010 0x40010 0x00000005 = 0 := by decide
/-- M7, M8. -/
theorem test_misaligned_lena : readBack (block [] false [] false [] false) 0x00017 0x00016 0x80000003 = 0x80000003 := by
  decide
theorem test_lena_reserved_bits : readBack (block [] false [] false [] false) 0x00014 0x00014 0x7FFF1234 = 0x00001234 := by
  decide
/-- M9, M11. -/
theorem test_lenr_read_only : readBack (block [] false [] false [] false) 0x0001C 0x0001C 5 = 0 := by decide
theorem test_ctrl_reserved_bits : readBack (block [] false [] false [] false) 0x00008 0x00008 0xFFFFFFFD = 1 := by decide
/-- M10, M12: SRST with IE = 1 written beside it. -/
theorem test_soft_reset_status : readBack (block [1] true [2] true [3] true) 0x00008 0x00010 3 = 0x00000010 := by decide
/-- 95 L2.5, dropped writes, steps 1 to 4: STATUS[3:0] = 0b1001 after writes while NEG is in flight. -/
theorem test_dropped_writes :
    (((((block [5] false [] false [] false).busWrite 0x0000C 0x0B).busWrite 0x40000 7).busWrite 0x0000C 0).statusWord
      &&& 0xF) = 0b1001 := by decide
/-- 95 L2.5, step 5: the completion after them; STATUS = DONE, OVR, N, and A[0] is still 5. -/
theorem test_completion_after_drop :
    (match datapathStep (((block [5] false [] false [] false).busWrite 0x0000C 0x0B).busWrite 0x40000 7) with
      | .next t => some (t.r.lenWord, t.statusWord, t.a.operand)
      | _ => none) = some (0x80000001, 0x0000002A, [0x0005]) := by decide
/-- R701: an access while reset is asserted is stuck; R202: a narrow access is refused by name. -/
theorem test_access_during_reset :
    step { block [] false [] false [] false with rst := true, inputs := [⟨.read 0x100000, true⟩] } =
      .fault .accessDuringReset := by rfl
theorem test_narrow_access :
    step { block [] false [] false [] false with inputs := [⟨.narrow 0x100000, true⟩] } = .refused .narrowAccess := by rfl

/-! ### Pseudo-instructions (R312) -/

theorem test_clr : clr = [.wr .status 0x0000000E] := by decide
/-- P1 steps 3 to 5, negated: lda -123456. -/
theorem test_lda : lda (-123456) =
    [.wr (.limbA 0) 0x00006240, .wr (.limbA 1) 0x00000003, .wr .lena 0x80000002] := by decide
/-- P3: shlx #20 is SHL #15, wait, MOVRA, wait, SHL #5, wait. -/
theorem test_shlx_20 : shlx 20 =
    [.wr .cmd 0x00000F09, .rd .status, .repeatWhileBusy, .wr .cmd 0x0000000D, .rd .status, .repeatWhileBusy,
     .wr .cmd 0x00000509, .rd .status, .repeatWhileBusy] := by decide
/-- R312: a bare COPY for k = 0. -/
theorem test_shrx_0 : shrx 0 = [.wr .cmd 0x0000000C] := by decide
/-- R312 `rdr` behind a NOP, R holding two limbs, the datapath stepping after the second poll: `wait` reads STATUS until
BUSY is read as 0, then come LENR and the LEN_R = 2 limbs. -/
theorem test_rdr_polls :
    hostTurns [false, false, true, false, false, false, false, false] (commandLine .nop :: rdr)
      (block [] false [] false [7, 9] true) =
    [⟨.write 0x10000C 0x00000000, false⟩, ⟨.read 0x100010, false⟩, ⟨.read 0x100010, true⟩, ⟨.read 0x100010, false⟩,
     ⟨.read 0x10001C, false⟩, ⟨.read 0x1C0000, false⟩, ⟨.read 0x1C0004, false⟩] := by decide
theorem test_asm_line : asmLine (.shl 15) = "SHL #15" := by decide

/-! ### Witnesses: a state and operands that meet the hypotheses of each statement, at the edges of each clause -/

/-- Operands of the full length LMAX = 4 and one of length 0. -/
def full : State := block [0x7FFF, 0x7FFF, 0x7FFF, 0x7FFF] true [] true [1, 2, 3, 4] true

/-- LEN_A = LEN_B = LMAX + 1 and LEN_R = LMAX + 1. -/
def tooLong : State :=
  { block [] false [] false [1, 2, 3, 4, 5] false with
    a := { limbs := [0, 0, 0, 0], len := 5, sign := false }
    b := { limbs := [0, 0, 0, 0], len := 5, sign := false } }

/-- A block with MOVRA, or another command, in flight. -/
def busyWith (i : Instr) : State := { block [5] false [3] false [7] false with inflight := some i }

theorem witness_DecodeInvertsEncode :
    decode 0x00000F09 = .cmd (.shl 15) ∧ Instr.wf (.shl 15) = true ∧ encode (.shl 15) = 0x00000F09 := by decide

/-- Each kind of illegal word on an idle block: RSV1, RSV0, reserved opcode 0x0F, SHAMT = 1 on MOVRB, SHR by 16. -/
theorem witness_IllegalWordsChangeOnlyStatus :
    full.inflight = none ∧ (0x00010001 : Word).toNat / 65536 ≠ 0 ∧ (0x00000020 : Word).toNat / 32 % 8 ≠ 0 ∧
      0x0F ≤ (0x0000000F : Word).toNat % 32 ∧
      ((0x0000010E : Word).toNat % 32 ≠ 0x09 ∧ (0x0000010E : Word).toNat % 32 ≠ 0x0A ∧
        (0x0000010E : Word).toNat / 256 % 256 ≠ 0) ∧
      (0x0000100A : Word).toNat / 65536 = 0 ∧ (0x0000100A : Word).toNat / 32 % 8 = 0 ∧
      (0x0000100A : Word).toNat % 32 = 0x0A ∧ 15 < (0x0000100A : Word).toNat / 256 % 256 := by decide

/-- Each clause of R602: busy; refused word; bad A, bad B alone, bad R; all good at LEN = LMAX. -/
theorem witness_CmdWriteFollowsTheAcceptanceOrder :
    (busyWith .nop).inflight ≠ none ∧ tooLong.inflight = none ∧ decode 0x0000000F = .refuse .badOpcode ∧
      decode 0x0000000C = .cmd .copy ∧ Instr.copy.opcode.toNat = 0x0C ∧ tooLong.cfg.lmax < tooLong.a.len.toNat ∧
      decode 0x00000008 = .cmd .xor ∧ Instr.xor.opcode.toNat = 0x08 ∧ tooLong.cfg.lmax < tooLong.b.len.toNat ∧
      decode 0x0000000D = .cmd .movra ∧ Instr.movra.opcode.toNat = 0x0D ∧ tooLong.cfg.lmax < tooLong.r.len.toNat ∧
      full.inflight = none ∧ full.a.len.toNat = full.cfg.lmax ∧ full.r.len.toNat = full.cfg.lmax := by decide

/-- The three clauses: a write of MUL with the datapath stepping; a command in flight with no turn, or an idle turn,
left; a command word below 2^32. -/
theorem witness_StepRunsTheDecodedCommand :
    ({ full with inputs := [⟨.write (full.cfg.base + 0x0C) 0x00000005, true⟩] } : State).inputs =
        ⟨.write (cfg4.base + 0x0C) 0x00000005, true⟩ :: [] ∧ full.rst = false ∧ full.inflight = none ∧
      decode 0x00000005 = .cmd .mul ∧ (busyWith .neg).inflight = some .neg ∧ (busyWith .neg).inputs = [] ∧
      ({ busyWith .neg with inputs := [⟨.idle, true⟩] } : State).inputs = ⟨.idle, true⟩ :: [] ∧
      decode (BitVec.ofNat 32 0x00000F0A) = .cmd (.shr 15) := by decide

theorem witness_CompletionDelayDoesNotMatter : full.rst = false ∧ full.inflight = none := by decide

/-- A busy block with a legal schedule: an access in the window's last word, a reset, and an access after it. -/
theorem witness_BusyEndsWithTheSchedule :
    ({ busyWith .movra with inputs := [⟨.read 0x1FFFFC, false⟩, ⟨.rst true, false⟩, ⟨.rst false, false⟩,
        ⟨.write 0x10000C 0x00000005, false⟩] } : State).Inv ∧
      legalInputs cfg4 false [⟨.read 0x1FFFFC, false⟩, ⟨.rst true, false⟩, ⟨.rst false, false⟩,
        ⟨.write 0x10000C 0x00000005, false⟩] = true := by decide

theorem witness_StepKeepsTheInvariant : (busyWith (.shr 15)).Inv ∧ ∃ t, step (busyWith (.shr 15)) = .next t :=
  ⟨by decide, _, rfl⟩

theorem witness_ResetMeetsTheInvariant : Config.wf { lmax := 1, base := 0 } = true := by decide

/-- Both clauses, and both sides of the second: a legal turn, and the first address below the window. -/
theorem witness_StepStopsOnlyOnIllegalAccesses :
    full.inputs = [] ∧ Access.legal cfg4 false (.read 0x100000) = true ∧
      Access.legal cfg4 false (.read 0x0FFFFF) = false ∧ Access.legal cfg4 true (.read 0x100000) = false := by decide

theorem witness_AccessDuringResetIsStuck :
    let s : State := { full with rst := true, inputs := [⟨.read 0x1FFFFF, false⟩] }
    s.rst = true ∧ s.cfg.base ≤ 0x1FFFFF ∧ 0x1FFFFF < s.cfg.base + 2 ^ 20 ∧
      s.inputs = ⟨.read 0x1FFFFF, false⟩ :: [] ∧
      ({ s with inputs := [⟨.write 0x100000 0, true⟩] } : State).inputs = ⟨.write 0x100000 0, true⟩ :: [] := by decide

theorem witness_SubtractorComputesTheDifference : limbsVal [1] ≤ limbsVal [0, 1] := by decide

theorem witness_MultiplierComputesTheProduct : (32767 : Nat) < limbBase := by decide

theorem witness_LeftShiftLanesMultiply : (15 : Nat) ≤ 15 := by decide

theorem witness_RightShiftLanesDivide : (15 : Nat) ≤ 15 := by decide

theorem witness_ResultsFitTheResultRegister :
    Config.wf { lmax := 1, base := 0 } = true ∧ ([0x7FFF] : List Limb).length ≤ 1 := by decide

/-- For every command that reads A and B (ADDM, SUBM, ADD, SUB, MUL, AND, OR, XOR) or A alone (SHL, SHR, NEG, COPY):
lengths at LMAX and at 0, and the first length too long; a word with the opcode but not the legal one. -/
theorem witness_command_lengths :
    full.Ready ∧ full.a.len.toNat ≤ full.cfg.lmax ∧ full.a.len.toNat = 4 ∧ full.b.len.toNat ≤ full.cfg.lmax ∧
      tooLong.Ready ∧ tooLong.cfg.lmax < tooLong.a.len.toNat ∧ tooLong.cfg.lmax < tooLong.b.len.toNat := by decide

theorem witness_OnlyLegalWord :
    full.inflight = none ∧ (0x00000103 : Word).toNat % 32 = (0x00000003 : Word).toNat % 32 ∧
      (0x00000103 : Word) ≠ 0x00000003 := by decide

/-- SHL and SHR: the amounts 0, 15 and 16, and a reserved field set. -/
theorem witness_shift_amounts :
    (0 : BitVec 8).toNat ≤ 15 ∧ (15 : BitVec 8).toNat ≤ 15 ∧ 15 < (16 : BitVec 8).toNat ∧
      (0x00000029 : Word).toNat % 32 = 0x09 ∧ (0x00000029 : Word).toNat / 32 % 8 ≠ 0 ∧
      (0x8000000A : Word).toNat % 32 = 0x0A ∧ (0x8000000A : Word).toNat / 65536 ≠ 0 := by decide

/-- MOVRA, MOVRB: LEN_R = LMAX and LEN_R = LMAX + 1. -/
theorem witness_move_lengths :
    full.Ready ∧ full.r.len.toNat ≤ full.cfg.lmax ∧ full.r.len.toNat = 4 ∧ tooLong.Ready ∧
      tooLong.cfg.lmax < tooLong.r.len.toNat := by decide

theorem witness_NopOnlyCompletes : full.rst = false ∧ full.ie = true := by decide

/-- The frame's edges: opcodes 0x01 and 0x0C run, and an offset that is none of those left out. -/
theorem witness_ResultCommandsFrame :
    (∃ t, exec .addm full = .next t) ∧ (∃ t, exec .copy full = .next t) ∧ Instr.addm.opcode.toNat = 0x01 ∧
      Instr.copy.opcode.toNat = 0x0C ∧ Instr.copy.opcode.toNat ≠ 0x0A ∧ (0xBFFFF : Offset).toNat < 0xC0000 ∧
      (0xBFFFF : Offset).toNat / 4 ≠ 4 ∧ (0xBFFFF : Offset).toNat / 4 ≠ 7 ∧ (0xBFFFF : Offset).toNat / 4 ≠ 8 :=
  ⟨⟨_, rfl⟩, ⟨_, rfl⟩, by decide⟩

/-- The first limb above LEN_R = 4 in each window. -/
theorem witness_MovesFrame :
    full.Ready ∧ (∃ t, exec .movra full = .next t) ∧ (∃ t, exec .movrb full = .next t) ∧
      (0x40010 : Offset).toNat / 4 ≠ 4 ∧ (0x40010 : Offset).toNat / 4 ≠ 5 ∧
      ¬(0x10000 ≤ (0x40010 : Offset).toNat / 4 ∧ (0x40010 : Offset).toNat / 4 < 0x10000 + full.r.len.toNat) ∧
      (0x80010 : Offset).toNat / 4 ≠ 4 ∧ (0x80010 : Offset).toNat / 4 ≠ 6 ∧
      ¬(0x20000 ≤ (0x80010 : Offset).toNat / 4 ∧ (0x80010 : Offset).toNat / 4 < 0x20000 + full.r.len.toNat) :=
  ⟨by decide, ⟨_, rfl⟩, ⟨_, rfl⟩, by decide⟩

theorem witness_EveryCommandLeavesACanonicalResult :
    full.Ready ∧ full.r.Canonical ∧ full.r.len.toNat ≤ full.cfg.rmax ∧ ∃ t, exec .mul full = .next t :=
  ⟨by decide, by decide, by decide, _, rfl⟩

/-- The CMP clause at opcodes 0x01 and 0x0C, the SHOUT clause, and a command that is no move. -/
theorem witness_NoCommandReadsAFlag :
    (∃ t, exec .addm full = .next t ∧ t.Completed) ∧ (∃ t, exec .copy full = .next t ∧ t.Completed) ∧
      Instr.addm.opcode.toNat = 0x01 ∧ Instr.copy.opcode.toNat = 0x0C ∧ acceptError (.shr 15) full = none ∧
      (Instr.shr 15).opcode.toNat = 0x0A ∧ Instr.copy.opcode.toNat ≠ 0x0D ∧ Instr.copy.opcode.toNat ≠ 0x0E ∧
      acceptError .copy full = none :=
  ⟨⟨_, rfl, by decide⟩, ⟨_, rfl, by decide⟩, by decide⟩

/-- Other cells above the lengths: A is full, B has none in its value, R has LEN_R = 4 of 8. -/
theorem witness_NoCommandReadsALimbAboveItsLength :
    full.Ready ∧ full.r.len.toNat ≤ full.cfg.rmax ∧ ([9, 9, 9, 9] : List Limb).length = full.cfg.lmax ∧
      ([9, 9, 9, 9] : List Limb).take full.b.len.toNat = full.b.operand ∧
      ([1, 2, 3, 4, 9, 9, 9, 9] : List Limb).length = full.cfg.rmax ∧
      ([1, 2, 3, 4, 9, 9, 9, 9] : List Limb).take full.r.len.toNat = full.r.operand ∧
      full.a.limbs.take full.a.len.toNat = full.a.operand := by decide

/-- A shift by 15 whose result just fills A. -/
theorem witness_ShiftLeftThenRightIsTheIdentity :
    let s := block [1, 2, 0x7FFF] true [] false [] false
    s.Ready ∧ s.a.len.toNat ≤ s.cfg.lmax ∧ (15 : BitVec 8).toNat ≤ 15 ∧
      nlen (s.a.value * 2 ^ (15 : BitVec 8).toNat) ≤ s.cfg.lmax := by decide

theorem witness_NegTwiceIsTheIdentity : full.Ready ∧ full.a.len.toNat ≤ full.cfg.lmax := by decide

/-- An access that answers: a dropped write while NEG is in flight, and a CTRL write with SRST = 0. -/
theorem witness_OnlyCompletionChangesTheResult :
    (∃ t, hostStep (.write 0x140000 7) (busyWith .neg) = .next t) ∧ (busyWith .neg).inflight ≠ none ∧
      windowOffset cfg4 0x100008 = some 0x00008 ∧ (0x00008 : Offset).toNat / 4 = 2 ∧ (1 : Word)[1] = false :=
  ⟨⟨_, rfl⟩, by decide⟩

/-- The last limb of A and of B. -/
theorem witness_OperandLimbWriteReadsBack : full.Ready ∧ full.inflight = none ∧ 3 < full.cfg.lmax := by decide

theorem witness_ResultWindowIsReadOnly : full.Ready ∧ 7 < full.cfg.rmax ∧ full.inflight = none := by decide

/-- The first and last offset of each reserved range with LMAX = 4, and each register with reserved bits. -/
theorem witness_ReservedIsReadZeroWriteIgnored :
    full.cfg.wf = true ∧ full.inflight = none ∧ 0x00024 ≤ (0x3FFFF : Offset).toNat ∧
      (0x3FFFF : Offset).toNat < 0x40000 ∧ 0x40000 + 4 * full.cfg.lmax ≤ (0x40010 : Offset).toNat ∧
      (0x7FFFF : Offset).toNat < 0x80000 ∧ 0x80000 + 4 * full.cfg.lmax ≤ (0x80010 : Offset).toNat ∧
      (0xBFFFF : Offset).toNat < 0xC0000 ∧ 0xC0000 + 4 * full.cfg.rmax ≤ (0xC0020 : Offset).toNat ∧
      (0x00008 : Offset).toNat / 4 = 2 ∧ (0x00013 : Offset).toNat / 4 = 4 ∧ (0x00014 : Offset).toNat / 4 = 5 ∧
      (0x0001F : Offset).toNat / 4 = 7 ∧ (0x00020 : Offset).toNat / 4 = 8 ∧ 0x40000 ≤ (0x40000 : Offset).toNat := by
  decide

theorem witness_LengthRegistersReadBack : full.inflight = none := by decide

theorem witness_StatusFieldsAndWriteOneToClear : full.inflight = none := by decide

/-- SRST = 0 and SRST = 1, with IE set beside it. -/
theorem witness_CtrlWriteSetsIeOrResets : (0x00000001 : Word)[1] = false ∧ (0x00000003 : Word)[1] = true := by decide

theorem witness_EveryResetLeavesTheResetValues :
    (busyWith .mul).rst = false ∧ (0x00000003 : Word)[1] = true := by decide

theorem witness_IdAndParamAreConstants : full.cfg.wf = true := by decide

theorem witness_ReadOnlyRegistersReadTheirFields : full.inflight = none := by decide

/-- An exact register while busy (OP = MOVRA in flight, B is not written). -/
theorem witness_ReadsHaveNoSideEffects : (busyWith .movra).unspecified (decodeOffset 0x80000) = 0 := by decide

/-- The first and last offset of each clause. -/
theorem witness_BusyWritesAreDropped :
    (busyWith .neg).inflight ≠ none ∧ (0x0000F : Offset).toNat / 4 = 3 ∧ (0x00014 : Offset).toNat / 4 = 5 ∧
      (0x0001B : Offset).toNat / 4 = 6 ∧ 0x40000 ≤ (0x40000 : Offset).toNat ∧ (0xBFFFF : Offset).toNat < 0xC0000 ∧
      (0x00003 : Offset).toNat / 4 = 0 ∧ (0x00004 : Offset).toNat / 4 = 1 ∧ 7 ≤ (0x0001C : Offset).toNat / 4 ∧
      (0x3FFFF : Offset).toNat < 0x40000 ∧ 0xC0000 ≤ (0xC0000 : Offset).toNat := by decide

theorem witness_BusyControlWritesAreAllowed :
    (busyWith .movrb).Inv ∧ (busyWith .movrb).inflight ≠ none ∧ (0x00000001 : Word)[1] = false ∧
      (0x00000002 : Word)[1] = true := by decide

/-- While SHR is in flight the operands are exact; while MOVRA is, R, LENR and B are. -/
theorem witness_BusyReadsAreExactElsewhere :
    (busyWith (.shr 1)).inflight = some (.shr 1) ∧ (Instr.shr 1).opcode.toNat = 0x0A ∧
      ¬(0xC0000 ≤ (0xBFFFF : Offset).toNat ∨ (0xBFFFF : Offset).toNat / 4 = 7 ∨ (0xBFFFF : Offset).toNat / 4 = 4) ∧
      ¬((0xBFFFF : Offset).toNat / 4 = 8) ∧ (busyWith .movra).inflight = some .movra ∧
      ¬((0x80000 : Offset).toNat / 4 = 5 ∨ (0x40000 ≤ (0x80000 : Offset).toNat ∧ (0x80000 : Offset).toNat < 0x80000)) ∧
      (0x00010 : Offset).toNat / 4 = 4 := by decide

/-- Each clause of R605: a command that answers, words refused by the decoder, with BAD_LENGTH and with CAPACITY, an
accepted one, and both values of each bit written. -/
theorem witness_InterruptFollowsDoneAndIe :
    full.rst = false ∧ (∃ t, exec .nop full = .next t) ∧ full.inflight = none ∧
      decode 0x0000001F = .refuse .badOpcode ∧ tooLong.rst = false ∧ tooLong.inflight = none ∧
      (tooLong.busWrite 0x0000C 0x00000003).inflight = none ∧
      (tooLong.busWrite 0x0000C 0x0000000D).inflight = none ∧ (full.busWrite 0x0000C 0x00000000).inflight ≠ none ∧
      (0x00000002 : Word)[1] = true ∧ (0x00000001 : Word)[1] = false ∧ (busyWith .neg).inflight ≠ none :=
  ⟨by decide, ⟨_, rfl⟩, by decide⟩

end Sys2Proof.Tests
end

section
/-! PROOFS. The lanes of an operand as numbers: what lies past its length, what a lane-wise operation leaves in lane i
(41_bitwise.md R450), and how the lanes that are 0 bound the number of limbs a value needs (00_scope.md R15). -/

namespace Sys2Proof.Machine

open Sys2Proof

theorem laneAt_of_length_le {xs : List Limb} {i : Nat} (h : xs.length ≤ i) : laneAt xs i = 0 :=
  List.getD_eq_default _ _ h

/-- R450: the lanes are combined each on its own. Past both operands this needs that `f` keeps 0. -/
theorem laneAt_mapLanes {f : Limb → Limb → Limb} (hf : f 0 0 = 0) (xs ys : List Limb) (i : Nat) :
    laneAt (mapLanes f xs ys) i = f (laneAt xs i) (laneAt ys i) := by
  by_cases hi : i < max xs.length ys.length
  · simp [laneAt, mapLanes, lanePairs, hi]
  · obtain ⟨hx, hy⟩ : xs.length ≤ i ∧ ys.length ≤ i := by omega
    rw [laneAt_of_length_le hx, laneAt_of_length_le hy, hf]
    exact laneAt_of_length_le (by simpa using ⟨hx, hy⟩)

theorem limbsVal_eq_zero {xs : List Limb} (h : ∀ i, laneAt xs i = 0) : limbsVal xs = 0 := by
  induction xs with
  | nil => rfl
  | cons x xs ih =>
    have hx : x = 0 := h 0
    have hxs : limbsVal xs = 0 := ih fun i => h (i + 1)
    simp [hx, hxs]

/-- Lanes that are 0 from lane n up leave a value of at most n limbs. -/
theorem nlen_limbsVal_le_of_zero_lanes {xs : List Limb} {n : Nat} (h : ∀ i, n ≤ i → laneAt xs i = 0) :
    nlen (limbsVal xs) ≤ n := by
  have hdrop : limbsVal (xs.drop n) = 0 := limbsVal_eq_zero fun i => by
    simpa [laneAt] using h (n + i) (Nat.le_add_right n i)
  have htake : limbsVal xs = limbsVal (xs.take n) := by
    conv_lhs => rw [← List.take_append_drop n xs, limbsVal_append, hdrop]
    simp
  rw [htake]
  exact (nlen_limbsVal_le _).trans (List.length_take_le n xs)

end Sys2Proof.Machine
end

section
/-! PROOFS. The number of limbs each result needs (40_arithmetic.md R405, 42_shift.md R504, 41_bitwise.md R460 to R462). -/

namespace Sys2Proof.Machine

open Sys2Proof

section Bounds

variable (xs ys : List Limb)

theorem nlen_addMag_le : nlen (addMag xs ys) ≤ max xs.length ys.length + 1 :=
  (nlen_limbsVal_le _).trans_eq (by simp)

theorem nlen_subMag_le : nlen (subMag xs ys) ≤ max xs.length ys.length :=
  (nlen_limbsVal_le _).trans_eq (by simp)

theorem nlen_mulMag_le : nlen (mulMag xs ys) ≤ xs.length + ys.length :=
  (nlen_limbsVal_le _).trans_eq (mulRows_length ys xs _ List.length_replicate)

theorem nlen_shlLimbs_le (n : Nat) : nlen (limbsVal (shlLimbs n xs)) ≤ xs.length + 1 :=
  (nlen_limbsVal_le _).trans_eq (shlLimbs_length n xs)

theorem nlen_shrLimbs_le (n : Nat) : nlen (limbsVal (shrLimbs n xs)) ≤ xs.length :=
  (nlen_limbsVal_le _).trans_eq (shrLimbs_length n xs)

theorem nlen_mapLanes_le (f : Limb → Limb → Limb) :
    nlen (limbsVal (mapLanes f xs ys)) ≤ max xs.length ys.length :=
  (nlen_limbsVal_le _).trans_eq (mapLanes_length f xs ys)

/-- R460: past the shorter operand one side of each AND lane is 0. -/
theorem nlen_and_le : nlen (limbsVal (mapLanes (· &&& ·) xs ys)) ≤ min xs.length ys.length := by
  refine nlen_limbsVal_le_of_zero_lanes fun i hi => ?_
  rw [laneAt_mapLanes (by decide)]
  rcases min_le_iff.1 hi with hx | hy
  · simp [laneAt_of_length_le hx]
  · simp [laneAt_of_length_le hy]

end Bounds

/-- RMAX = 2 * LMAX and 1 <= LMAX, so R has room for a carry limb and for a full product (00_scope.md R9). -/
theorem operand_lengths_le_rmax {cfg : Config} {m n : Nat} (hc : cfg.wf = true) (hm : m ≤ cfg.lmax)
    (hn : n ≤ cfg.lmax) : max m n + 1 ≤ cfg.rmax ∧ m + n ≤ cfg.rmax := by
  have hpos := Config.lmax_pos hc
  unfold Config.rmax
  omega

/-- Settles O20: each bound is the length of the list of lanes the datapath fills, but AND's, which needs that the lanes
past the shorter operand are 0. -/
theorem resultsFitTheResultRegister : Obligations.ResultsFitTheResultRegister := fun xs ys n =>
  ⟨nlen_addMag_le xs ys, nlen_subMag_le xs ys, nlen_mulMag_le xs ys, nlen_shlLimbs_le xs n, nlen_shrLimbs_le xs n,
    nlen_mapLanes_le xs ys, nlen_and_le xs ys, nlen_limbsVal_le xs,
    fun _ hc hx hy => operand_lengths_le_rmax hc hx hy⟩

end Sys2Proof.Machine
end

section
/-! PROOFS. The state after a hardware reset (10_state.md R120) meets the invariant. -/

namespace Sys2Proof.Machine

open Sys2Proof

theorem resetWith_memory (cfg : Config) : Memory.wf (State.resetWith cfg) :=
  ⟨drawLimbs_length _ _, drawLimbs_length _ _, drawLimbs_length _ _⟩

/-- With length 0 a register holds 0, whatever its cells hold (10_state.md R113). -/
theorem BigReg.value_of_len_eq_zero {x : BigReg} (h : x.len = 0) : x.value = 0 := by
  simp [BigReg.value, BigReg.operand, h]

/-- A non-negative zero of length 0 is canonical (10_state.md R114). -/
theorem BigReg.canonical_of_len_eq_zero {x : BigReg} (hl : x.len = 0) (hs : x.sign = false) : x.Canonical :=
  ⟨by simp [BigReg.value_of_len_eq_zero hl, hl], fun _ => hs⟩

theorem resetWith_inv {cfg : Config} (hc : cfg.wf = true) : (State.resetWith cfg).Inv :=
  ⟨⟨hc, resetWith_memory cfg⟩, BigReg.canonical_of_len_eq_zero rfl rfl, Nat.zero_le _, rfl,
    ⟨nofun, fun herr => absurd rfl herr⟩, fun _ => rfl⟩

/-- Settles O10: State.reset is the reset state of one legal configuration. -/
theorem resetMeetsTheInvariant : Obligations.ResetMeetsTheInvariant :=
  ⟨resetWith_inv (by decide), fun _ => resetWith_inv⟩

end Sys2Proof.Machine
end

section
/-! PROOFS. What a command's result depends on: its operands, and no flag, no limb above a length (10_state.md R113, R115,
R117). -/

namespace Sys2Proof.Machine

open Sys2Proof

/-! ### The operands of two states -/

/-- R113: two registers no command can tell apart as operands: the same limbs below the length, length and sign. -/
structure BigReg.SameOperand (x y : BigReg) : Prop where
  operand : x.operand = y.operand
  len : x.len = y.len
  sign : x.sign = y.sign

theorem BigReg.SameOperand.refl (x : BigReg) : x.SameOperand x := ⟨rfl, rfl, rfl⟩

theorem BigReg.SameOperand.value {x y : BigReg} (h : x.SameOperand y) : x.value = y.value := by
  rw [BigReg.value, BigReg.value, h.operand]

theorem BigReg.SameOperand.effSign {x y : BigReg} (h : x.SameOperand y) : x.effSign = y.effSign := by
  rw [BigReg.effSign, BigReg.effSign, h.sign, h.value]

/-- The checks of R602 read the parameters and the three lengths, and the length of R for a move alone. -/
theorem acceptError_congr {i : Instr} {s s' : State} (hc : s.cfg = s'.cfg) (ha : s.a.len = s'.a.len)
    (hb : s.b.len = s'.b.len) (hr : i.movesR = true → s.r.len = s'.r.len) :
    acceptError i s = acceptError i s' := by
  cases hm : i.movesR with
  | false => simp [acceptError, hc, ha, hb, hm]
  | true => simp [acceptError, hc, ha, hb, hr hm]

/-! ### Accepted commands that do not write R -/

theorem exec_nop_of_accepted {s : State} (h : acceptError .nop s = none) : exec .nop s = .next s.complete :=
  (execNop.eq_1 s).trans (command_of_accepted _ h)

theorem exec_movra_of_accepted {s : State} (h : acceptError .movra s = none) :
    exec .movra s = .next (s.setA (s.a.moveFrom s.r)).complete :=
  (execMovra.eq_1 s).trans (command_of_accepted _ h)

theorem exec_movrb_of_accepted {s : State} (h : acceptError .movrb s = none) :
    exec .movrb s = .next (s.setB (s.b.moveFrom s.r)).complete :=
  (execMovrb.eq_1 s).trans (command_of_accepted _ h)

/-! ### The result of two states with the same operands -/

/-- What a command that writes R writes before it completes: Finish(m, sg), CMP, and SHOUT when `out` holds a value. -/
def State.writeResult (s : State) (m : Nat) (sg : Bool) (c : Cmp) (out : Option Limb) : State :=
  ((s.finish m sg).setShout (out.getD s.shout)).setCmp c

/-- R117: a command that writes R computes what it writes from its operands alone. -/
theorem exec_writesR_congr {i : Instr} {s s' : State} (hi : i.writesR = true) (he : acceptError i s = none)
    (he' : acceptError i s' = none) (ha : s.a.SameOperand s'.a) (hb : s.b.SameOperand s'.b) :
    ∃ m sg c out, ((∃ n, i = .shr n) → out.isSome = true) ∧
      exec i s = .next (s.writeResult m sg c out).complete ∧
      exec i s' = .next (s'.writeResult m sg c out).complete := by
  have key : ∀ (f : State → State) (m : Nat) (sg : Bool) (c : Cmp) (out : Option Limb),
      ((∃ n, i = .shr n) → out.isSome = true) → exec i = command i f →
      f s = s.writeResult m sg c out → f s' = s'.writeResult m sg c out →
      ∃ m sg c out, ((∃ n, i = .shr n) → out.isSome = true) ∧
        exec i s = .next (s.writeResult m sg c out).complete ∧
        exec i s' = .next (s'.writeResult m sg c out).complete := by
    intro f m sg c out hout hf h h'
    refine ⟨m, sg, c, out, hout, ?_, ?_⟩
    · rw [hf, command_of_accepted f he, h]
    · rw [hf, command_of_accepted f he', h']
  cases i with
  | nop => cases hi
  | movra => cases hi
  | movrb => cases hi
  | addm => exact key _ _ _ _ none nofun rfl rfl (by simp only [ha.operand, hb.operand]; rfl)
  | subm => exact key _ _ _ _ none nofun rfl rfl (by simp only [ha.operand, hb.operand]; rfl)
  | add => exact key _ _ _ _ none nofun rfl rfl (by simp only [ha.operand, hb.operand, ha.effSign, hb.effSign]; rfl)
  | sub =>
    exact key _ _ _ _ none nofun rfl rfl
      (by simp only [ha.operand, hb.operand, ha.effSign, hb.effSign, hb.value]; rfl)
  | mul => exact key _ _ _ _ none nofun rfl rfl (by simp only [ha.operand, hb.operand, ha.effSign, hb.effSign]; rfl)
  | and => exact key _ _ _ _ none nofun rfl rfl (by simp only [ha.operand, hb.operand, ha.effSign]; rfl)
  | or => exact key _ _ _ _ none nofun rfl rfl (by simp only [ha.operand, hb.operand, ha.effSign]; rfl)
  | xor => exact key _ _ _ _ none nofun rfl rfl (by simp only [ha.operand, hb.operand, ha.effSign]; rfl)
  | shl n => exact key _ _ _ _ none nofun rfl rfl (by simp only [ha.operand, ha.effSign]; rfl)
  | shr n => exact key _ _ _ _ (some _) (fun _ => rfl) rfl rfl (by simp only [ha.operand, ha.effSign]; rfl)
  | neg => exact key _ _ _ _ none nofun rfl rfl (by simp only [ha.value, ha.effSign]; rfl)
  | copy => exact key _ _ _ _ none nofun rfl rfl (by simp only [ha.value, ha.effSign]; rfl)

end Sys2Proof.Machine
end

section
/-! PROOFS. Promises over all commands: what depends on no flag and on no limb above a length, the frame of the commands
that write R, and R canonical (10_state.md R105, R113 to R118). -/

namespace Sys2Proof

/-! ### The kinds of command (30_encoding.md R303) -/

theorem Instr.kind_cases (i : Instr) : i = .nop ∨ i = .movra ∨ i = .movrb ∨ i.writesR = true := by
  cases i <;> simp [Instr.writesR]

/-- Opcodes 0x01 to 0x0C are the commands that write R. -/
theorem Instr.writesR_of_opcode {i : Instr} (h1 : 0x01 ≤ i.opcode.toNat) (hC : i.opcode.toNat ≤ 0x0C) :
    i.writesR = true := by
  cases i <;> simp [Instr.opcode, Instr.writesR] at h1 hC ⊢

theorem Instr.movesR_eq_false {i : Instr} (hD : i.opcode.toNat ≠ 0x0D) (hE : i.opcode.toNat ≠ 0x0E) :
    i.movesR = false := by
  cases i <;> simp [Instr.movesR, Instr.opcode] at hD hE ⊢

theorem Instr.eq_shr_of_opcode {i : Instr} (h : i.opcode.toNat = 0x0A) : ∃ n, i = .shr n := by
  cases i <;> simp [Instr.opcode] at h ⊢

end Sys2Proof

namespace Sys2Proof.Machine

open Sys2Proof

/-! ### Flags (R117) -/

/-- A refused command does not end as a completed one does. -/
theorem not_completed_refuse (s : State) (code : ErrCode) : ¬(s.refuse code).Completed :=
  fun ⟨_, _, herr, _⟩ => Bool.noConfusion herr

theorem exec_congr_flags (i : Instr) (s : State) (c : Cmp) (v : Limb) (d e o : Bool) (k : ErrCode) :
    ∃ t t' : State, exec i s = .next t ∧
      exec i { s with cmp := c, shout := v, done := d, err := e, errcode := k, ovr := o } = .next t' ∧
      t.a = t'.a ∧ t.b = t'.b ∧ t.r = t'.r ∧ t.done = t'.done ∧
      (t.Completed → 0x01 ≤ i.opcode.toNat → i.opcode.toNat ≤ 0x0C → t.cmp = t'.cmp) ∧
      (acceptError i s = none → i.opcode.toNat = 0x0A → t.shout = t'.shout) := by
  have heq : acceptError i { s with cmp := c, shout := v, done := d, err := e, errcode := k, ovr := o } =
      acceptError i s := acceptError_congr rfl rfl rfl fun _ => rfl
  cases ha : acceptError i s with
  | some code =>
    exact ⟨_, _, exec_of_refused ha, exec_of_refused (heq.trans ha), rfl, rfl, rfl, rfl,
      fun h => absurd h (not_completed_refuse s code), nofun⟩
  | none =>
    have ha' := heq.trans ha
    rcases i.kind_cases with rfl | rfl | rfl | hi
    · exact ⟨_, _, exec_nop_of_accepted ha, exec_nop_of_accepted ha', rfl, rfl, rfl, rfl, nofun, nofun⟩
    · exact ⟨_, _, exec_movra_of_accepted ha, exec_movra_of_accepted ha', rfl, rfl, rfl, rfl, nofun, nofun⟩
    · exact ⟨_, _, exec_movrb_of_accepted ha, exec_movrb_of_accepted ha', rfl, rfl, rfl, rfl, nofun, nofun⟩
    · obtain ⟨m, sg, c', out, hout, h, h'⟩ := exec_writesR_congr hi ha ha' (.refl _) (.refl _)
      refine ⟨_, _, h, h', rfl, rfl, rfl, rfl, fun _ _ _ => rfl, fun _ hop => ?_⟩
      obtain ⟨x, rfl⟩ := Option.isSome_iff_exists.1 (hout (Instr.eq_shr_of_opcode hop))
      rfl

theorem exec_congr_result (i : Instr) (s : State) (x : BigReg) (hD : i.opcode.toNat ≠ 0x0D)
    (hE : i.opcode.toNat ≠ 0x0E) :
    ∃ t t' : State, exec i s = .next t ∧ exec i { s with r := x } = .next t' ∧
      t.a = t'.a ∧ t.b = t'.b ∧ t.shout = t'.shout ∧ t.cmp = t'.cmp ∧ t.done = t'.done ∧ t.err = t'.err ∧
      t.errcode = t'.errcode ∧ (acceptError i s = none → 0x01 ≤ i.opcode.toNat → t.r = t'.r) := by
  have heq : acceptError i { s with r := x } = acceptError i s :=
    acceptError_congr rfl rfl rfl fun hm => absurd hm (by simp [Instr.movesR_eq_false hD hE])
  cases ha : acceptError i s with
  | some code =>
    exact ⟨_, _, exec_of_refused ha, exec_of_refused (heq.trans ha), rfl, rfl, rfl, rfl, rfl, rfl, rfl, nofun⟩
  | none =>
    have ha' := heq.trans ha
    rcases i.kind_cases with rfl | rfl | rfl | hi
    · exact ⟨_, _, exec_nop_of_accepted ha, exec_nop_of_accepted ha', rfl, rfl, rfl, rfl, rfl, rfl, rfl, nofun⟩
    · exact absurd rfl hD
    · exact absurd rfl hE
    · obtain ⟨m, sg, c, out, -, h, h'⟩ := exec_writesR_congr hi ha ha' (.refl _) (.refl _)
      exact ⟨_, _, h, h', rfl, rfl, rfl, rfl, rfl, rfl, rfl, fun _ _ => rfl⟩

/-- Settles O39: the checks and the result of a command are functions of its operands. -/
theorem noCommandReadsAFlag : Obligations.NoCommandReadsAFlag := fun i s c v d e o k =>
  ⟨exec_congr_flags i s c v d e o k, fun x => exec_congr_result i s x⟩

/-! ### Limbs above the lengths (R113, R115) -/

/-- A move hands on the operand of R. -/
theorem moveFrom_operand (x : BigReg) {r : BigReg} (hr : r.operand.length = r.len.toNat) :
    (x.moveFrom r).operand = r.operand := by
  rw [BigReg.operand, BigReg.moveFrom, ← hr, List.take_left]

theorem moveFrom_sameOperand (x y : BigReg) {r r' : BigReg} (h : r.SameOperand r')
    (hr : r.operand.length = r.len.toNat) : (x.moveFrom r).SameOperand (y.moveFrom r') := by
  have hr' : r'.operand.length = r'.len.toNat := by rw [← h.operand, ← h.len, hr]
  exact ⟨by rw [moveFrom_operand x hr, moveFrom_operand y hr', h.operand], h.len, h.sign⟩

/-- Two states that differ in cells above the lengths alone, as far as the host can tell them apart. -/
structure State.SameBelowLengths (s s' : State) : Prop where
  a : s.a.SameOperand s'.a
  b : s.b.SameOperand s'.b
  r : s.r.SameOperand s'.r
  cmp : s.cmp = s'.cmp
  shout : s.shout = s'.shout
  status : s.statusWord = s'.statusWord

/-- A command keeps two states apart in nothing but cells above the lengths. -/
theorem exec_congr_below_lengths (i : Instr) {s : State} {la lb lr : List Limb}
    (hr : s.r.operand.length = s.r.len.toNat) (hla : la.take s.a.len.toNat = s.a.operand)
    (hlb : lb.take s.b.len.toNat = s.b.operand) (hlr : lr.take s.r.len.toNat = s.r.operand) :
    ∃ t t' : State, exec i s = .next t ∧
      exec i { s with a := { s.a with limbs := la }, b := { s.b with limbs := lb },
                      r := { s.r with limbs := lr } } = .next t' ∧
      t.SameBelowLengths t' := by
  have hA : s.a.SameOperand { s.a with limbs := la } := ⟨hla.symm, rfl, rfl⟩
  have hB : s.b.SameOperand { s.b with limbs := lb } := ⟨hlb.symm, rfl, rfl⟩
  have hR : s.r.SameOperand { s.r with limbs := lr } := ⟨hlr.symm, rfl, rfl⟩
  have heq : acceptError i { s with a := { s.a with limbs := la }, b := { s.b with limbs := lb },
                                    r := { s.r with limbs := lr } } = acceptError i s :=
     acceptError_congr rfl rfl rfl fun _ => rfl
  cases ha : acceptError i s with
  | some code => exact ⟨_, _, exec_of_refused ha, exec_of_refused (heq.trans ha), hA, hB, hR, rfl, rfl, rfl⟩
  | none =>
    have ha' := heq.trans ha
    rcases i.kind_cases with rfl | rfl | rfl | hi
    · exact ⟨_, _, exec_nop_of_accepted ha, exec_nop_of_accepted ha', hA, hB, hR, rfl, rfl, rfl⟩
    · exact ⟨_, _, exec_movra_of_accepted ha, exec_movra_of_accepted ha',
        moveFrom_sameOperand _ _ hR hr, hB, hR, rfl, rfl, rfl⟩
    · exact ⟨_, _, exec_movrb_of_accepted ha, exec_movrb_of_accepted ha',
        hA, moveFrom_sameOperand _ _ hR hr, hR, rfl, rfl, rfl⟩
    · obtain ⟨m, sg, c, out, -, h, h'⟩ := exec_writesR_congr hi ha ha' hA hB
      exact ⟨_, _, h, h', hA, hB, .refl _, rfl, rfl, rfl⟩

/-- Settles O40: the operands are the limbs below the lengths, and a move hands on R's operand. -/
theorem noCommandReadsALimbAboveItsLength : Obligations.NoCommandReadsALimbAboveItsLength := by
  rintro i s la lb lr ⟨-, -, -, hsize⟩ hlen _ _ _ hla hlb hlr
  obtain ⟨t, t', h, h', ha, hb, hr, hcmp, hshout, hstatus⟩ :=
    exec_congr_below_lengths i (operand_length hsize hlen) hla hlb hlr
  exact ⟨t, t', h, h', ha.operand, ha.len, ha.sign, hb.operand, hb.len, hb.sign, hr.operand, hr.len, hr.sign, hcmp,
    hshout, hstatus⟩

end Sys2Proof.Machine
end

section
/-! PROOFS. The register an offset reaches (20_memory.md R205), and the words of the registers a state shares with
another. -/

namespace Sys2Proof.Machine

open Sys2Proof

/-! ### The three limb windows -/

theorem decodeOffset_windowA {off : Offset} (h1 : 0x40000 ≤ off.toNat) (h2 : off.toNat < 0x80000) :
    decodeOffset off = .limbA (off.toNat / 4 - 0x10000) := by
  have hwin : off.toNat / 0x40000 = 1 := by omega
  have hidx : off.toNat / 4 % 0x10000 = off.toNat / 4 - 0x10000 := by omega
  simp only [decodeOffset, hwin, hidx]

theorem decodeOffset_windowB {off : Offset} (h1 : 0x80000 ≤ off.toNat) (h2 : off.toNat < 0xC0000) :
    decodeOffset off = .limbB (off.toNat / 4 - 0x20000) := by
  have hwin : off.toNat / 0x40000 = 2 := by omega
  have hidx : off.toNat / 4 % 0x10000 = off.toNat / 4 - 0x20000 := by omega
  simp only [decodeOffset, hwin, hidx]

theorem decodeOffset_windowR {off : Offset} (h1 : 0xC0000 ≤ off.toNat) :
    decodeOffset off = .limbR (off.toNat / 4 - 0x30000) := by
  have hlt := off.isLt
  have hwin : off.toNat / 0x40000 = 3 := by omega
  have hidx : off.toNat / 4 % 0x10000 = off.toNat / 4 - 0x30000 := by omega
  simp only [decodeOffset, hwin, hidx]

/-! ### All registers -/

/-- R205: an offset that reaches a register reaches one of the four bytes of its word. -/
theorem offset_decodeOffset {off : Offset} (h : decodeOffset off ≠ .reserved) :
    (decodeOffset off).offset.toNat / 4 = off.toNat / 4 := by
  have hlt := off.isLt
  by_cases hA : off.toNat < 0x40000
  · have hwin : off.toNat / 0x40000 = 0 := by omega
    have hidx : off.toNat / 4 % 0x10000 = off.toNat / 4 := by omega
    simp only [decodeOffset, hwin, hidx] at h ⊢
    split <;> simp_all [RegName.offset]
    omega
  by_cases hB : off.toNat < 0x80000
  · rw [decodeOffset_windowA (by omega) hB, RegName.offset, BitVec.toNat_ofNat]
    omega
  by_cases hR : off.toNat < 0xC0000
  · rw [decodeOffset_windowB (by omega) hR, RegName.offset, BitVec.toNat_ofNat]
    omega
  · rw [decodeOffset_windowR (by omega), RegName.offset, BitVec.toNat_ofNat]
    omega

theorem word_of_decodeOffset {off : Offset} {reg : RegName} (h : decodeOffset off = reg) (hr : reg ≠ .reserved) :
    off.toNat / 4 = reg.offset.toNat / 4 := by
  subst h
  exact (offset_decodeOffset hr).symm

/-- The R window stands above all other registers. -/
theorem decodeOffset_ne_limbR {off : Offset} (h : off.toNat < 0xC0000) (i : Nat) : decodeOffset off ≠ .limbR i := by
  by_cases hA : off.toNat < 0x40000
  · have hwin : off.toNat / 0x40000 = 0 := by omega
    simp only [decodeOffset, hwin]
    split <;> nofun
  by_cases hB : off.toNat < 0x80000
  · rw [decodeOffset_windowA (by omega) hB]
    nofun
  · rw [decodeOffset_windowB (by omega) h]
    nofun

/-- The registers that show A, B, IE and the parameters read the same when those are the same. -/
theorem regWord_congr {s t : State} {reg : RegName} (ha : t.a = s.a) (hb : t.b = s.b) (hie : t.ie = s.ie)
    (hcfg : t.cfg = s.cfg) (hstatus : reg ≠ .status) (hlenr : reg ≠ .lenr) (hshout : reg ≠ .shout)
    (hlimb : ∀ i, reg ≠ .limbR i) : t.regWord reg = s.regWord reg := by
  cases reg with
  | status => exact absurd rfl hstatus
  | lenr => exact absurd rfl hlenr
  | shout => exact absurd rfl hshout
  | limbR i => exact absurd rfl (hlimb i)
  | _ => simp only [State.regWord, ha, hb, hie, hcfg]

end Sys2Proof.Machine
end

section
/-! PROOFS. The frame of the commands that write R (10_state.md R117, R118), and that every command leaves R canonical
(R105, R114). -/

namespace Sys2Proof.Machine

open Sys2Proof

/-! ### The frame -/

/-- What a command that writes R leaves as it was, completed or refused. -/
structure State.SameButResult (s t : State) : Prop where
  a : t.a = s.a
  b : t.b = s.b
  ie : t.ie = s.ie
  ovr : t.ovr = s.ovr
  cfg : t.cfg = s.cfg
  rst : t.rst = s.rst
  inputs : t.inputs = s.inputs
  rdata : t.rdata = s.rdata

theorem exec_writesR_frame {i : Instr} {s t : State} (hi : i.writesR = true) (h : exec i s = .next t) :
    s.SameButResult t ∧ (t.shout = s.shout ∨ ∃ n, i = .shr n) := by
  rcases exec_cases i s with ⟨code, -, he⟩ | ⟨-, u, hw, he⟩
  · obtain rfl : s.refuse code = t := by simpa [he] using h
    exact ⟨⟨rfl, rfl, rfl, rfl, rfl, rfl, rfl, rfl⟩, .inl rfl⟩
  · obtain rfl : u.complete = t := by simpa [he] using h
    rcases hw with ⟨rfl, -⟩ | ⟨rfl, -⟩ | ⟨rfl, -⟩ | ⟨-, m, sg, c, v, rfl, hv, -⟩
    · cases hi
    · cases hi
    · cases hi
    · exact ⟨⟨rfl, rfl, rfl, rfl, rfl, rfl, rfl, rfl⟩, hv⟩

/-- Settles O36: the frame of the commands with opcodes 0x01 to 0x0C, register by register and offset by offset. -/
theorem resultCommandsFrame : Obligations.ResultCommandsFrame := by
  intro i s t h1 hC h
  obtain ⟨hs, hshout⟩ := exec_writesR_frame (Instr.writesR_of_opcode h1 hC) h
  refine ⟨hs.a, hs.b, hs.ie, hs.ovr, hs.cfg, hs.rst, hs.inputs, hs.rdata, fun hop => ?_, fun off hR h4 h7 h8 => ?_⟩
  · refine hshout.resolve_right ?_
    rintro ⟨n, rfl⟩
    exact hop rfl
  · exact regWord_congr hs.a hs.b hs.ie hs.cfg (fun hd => h4 (word_of_decodeOffset hd nofun))
      (fun hd => h7 (word_of_decodeOffset hd nofun)) (fun hd => h8 (word_of_decodeOffset hd nofun))
      (decodeOffset_ne_limbR hR)

/-! ### R canonical -/

/-- R114: Finish leaves its magnitude in exactly nlen limbs, and no negative zero. -/
theorem finish_canonical (s : State) (m : Nat) (sg : Bool) (h : nlen m ≤ s.cfg.rmax) (hr : s.cfg.rmax < 65536) :
    (s.finish m sg).r.Canonical := by
  rw [BigReg.Canonical, finish_len s m sg h hr, finish_value s m sg h hr]
  exact ⟨rfl, by simp +contextual⟩

/-- R is canonical and no longer than its file (10_state.md R105, R114). -/
def State.ResultOk (s : State) : Prop := s.r.Canonical ∧ s.r.len.toNat ≤ s.cfg.rmax

theorem writes_keeps_resultOk {i : Instr} {s u : State} (h : Writes i s u) (hs : s.Ready) (hr : s.ResultOk) :
    u.ResultOk := by
  rcases h with ⟨-, rfl⟩ | ⟨-, rfl⟩ | ⟨-, rfl⟩ | ⟨-, m, sg, c, v, rfl, -, hm⟩
  · exact hr
  · exact hr
  · exact hr
  · have hlt := Config.rmax_lt hs.1
    exact ⟨finish_canonical s m sg (hm hs) hlt, (finish_len s m sg (hm hs) hlt).trans_le (hm hs)⟩

theorem exec_keeps_resultOk {i : Instr} {s t : State} (h : exec i s = .next t) (hs : s.Ready) (hr : s.ResultOk) :
    t.ResultOk := by
  rcases exec_cases i s with ⟨code, -, he⟩ | ⟨-, u, hw, he⟩
  · obtain rfl : s.refuse code = t := by simpa [he] using h
    exact hr
  · obtain rfl : u.complete = t := by simpa [he] using h
    exact (writes_keeps_resultOk hw hs hr : u.ResultOk)

/-- Settles O38: Finish is the only writer of R. -/
theorem everyCommandLeavesACanonicalResult : Obligations.EveryCommandLeavesACanonicalResult :=
  fun _ _ _ hs hc hl h => exec_keeps_resultOk h hs ⟨hc, hl⟩

end Sys2Proof.Machine
end

section
/-! PROOFS. Every step keeps the invariant (10_state.md R105, R108, R114, R118, 60_exceptions.md R602, R604). -/

namespace Sys2Proof.Machine

open Sys2Proof

/-! ### The in-flight command (R118) -/

theorem inflightOk_iff (s : State) :
    s.inflightOk = true ↔ ∀ i, s.inflight = some i → acceptError i s = none ∧ s.done = false ∧ s.err = false := by
  unfold State.inflightOk
  cases s.inflight <;> simp [and_assoc]

theorem inflightOk_of_idle {s : State} (h : s.inflight = none) : s.inflightOk = true := by
  simp [inflightOk_iff, h]

theorem inflight_of_not_busy {s : State} (h : s.busy = false) : s.inflight = none := by
  simpa [State.busy] using h

theorem busy_of_idle {s : State} (h : s.inflight = none) : s.busy = false := by
  simp [State.busy, h]

/-! ### Resets, idle states, completed commands -/

/-- R120, R701: the reset state meets the invariant at either level of the reset input. -/
theorem toReset_inv {s : State} (b : Bool) (hc : s.cfg.wf = true) : State.Inv { s.toReset with rst := b } :=
  ⟨⟨hc, toReset_memory s⟩, BigReg.canonical_of_len_eq_zero rfl rfl, Nat.zero_le _, rfl,
    ⟨nofun, fun herr => absurd rfl herr⟩, fun _ => rfl⟩

theorem setRst_keeps_inv {s : State} (b : Bool) (hs : s.Inv) : (s.setRst b).Inv := by
  rcases setRst_cases s b with ⟨-, h⟩ | ⟨-, -, h⟩ | ⟨-, -, h⟩ <;> rw [h]
  · exact toReset_inv _ hs.1.1
  · exact toReset_inv _ hs.1.1
  · exact hs

theorem writes_cfg {i : Instr} {s u : State} (h : Writes i s u) : u.cfg = s.cfg := by
  rcases h with ⟨-, rfl⟩ | ⟨-, rfl⟩ | ⟨-, rfl⟩ | ⟨-, _, _, _, _, rfl, -, -⟩ <;> rfl

/-- R604: the completion of an accepted command keeps the invariant. -/
theorem exec_keeps_inv {i : Instr} {s t : State} (ha : acceptError i s = none) (h : exec i s = .next t) (hs : s.Inv) :
    t.Inv := by
  obtain ⟨hready, hcan, hlen, -, -, -⟩ := hs
  have hm := exec_keeps_memory h hready.2
  obtain ⟨hcan', hlen'⟩ := exec_keeps_resultOk h hready ⟨hcan, hlen⟩
  rcases exec_cases i s with ⟨code, hcode, -⟩ | ⟨-, u, hw, he⟩
  · rw [ha] at hcode
    cases hcode
  · obtain rfl : u.complete = t := by simpa [he] using h
    have hc : u.cfg.wf = true := writes_cfg hw ▸ hready.1
    exact ⟨⟨hc, hm⟩, hcan', hlen', rfl, ⟨nofun, fun herr => absurd rfl herr⟩, fun _ => rfl⟩

/-! ### The host's accesses -/

theorem submit_keeps_inv {s : State} (w : Word) (hs : s.Inv) (hrst : s.rst = false) : (s.submit w).Inv := by
  obtain ⟨hready, hcan, hlen, hfly, herr, hrstfly⟩ := hs
  rcases submit_cases s w with ⟨-, h⟩ | ⟨hb, code, hcode, h⟩ | ⟨-, i, -, ha, h⟩ <;> rw [h]
  · exact ⟨hready, hcan, hlen, hfly, herr, hrstfly⟩
  · exact ⟨hready, hcan, hlen, inflightOk_of_idle (inflight_of_not_busy hb), ⟨fun _ => hcode, fun _ => rfl⟩, hrstfly⟩
  · refine ⟨hready, hcan, hlen, (inflightOk_iff _).2 ?_, ⟨nofun, fun herr => absurd rfl herr⟩, fun hr => ?_⟩
    · rintro j ⟨⟩
      exact ⟨ha, rfl, rfl⟩
    · rw [State.accept_rst, hrst] at hr
      cases hr

/-- R108: a STATUS write clears ERRCODE with ERR, and DONE and ERR stay clear while a command is in flight. -/
theorem writeStatus_keeps_inv {s : State} (v : Word) (hs : s.Inv) : (s.writeStatus v).Inv := by
  obtain ⟨hready, hcan, hlen, hfly, herr, hrstfly⟩ := hs
  refine ⟨hready, hcan, hlen, (inflightOk_iff _).2 fun i hi => ?_, ?_, hrstfly⟩
  · obtain ⟨ha, hdone, herr0⟩ := (inflightOk_iff s).1 hfly i hi
    exact ⟨ha, by simp [hdone], by simp [herr0]⟩
  · cases hv : v[2] <;> simp [hv, herr]

theorem busWrite_keeps_inv {s : State} (off : Offset) (v : Word) (hs : s.Inv) (hrst : s.rst = false) :
    (s.busWrite off v).Inv := by
  have hm := busWrite_keeps_memory s off v hs.1.2
  obtain ⟨⟨hc, -⟩, hcan, hlen, hfly, herr, hrstfly⟩ := id hs
  rcases busWrite_cases s off v with h | ⟨-, h⟩ | ⟨-, -, h⟩ | ⟨-, -, h⟩ | ⟨-, h⟩ | ⟨-, h⟩ | ⟨hb, x, -, h⟩ |
    ⟨hb, x, -, h⟩ <;> rw [h] at hm ⊢
  · exact hs
  · exact ⟨⟨hc, hm⟩, hcan, hlen, hfly, herr, hrstfly⟩
  · exact toReset_inv s.rst hc
  · exact ⟨⟨hc, hm⟩, hcan, hlen, hfly, herr, hrstfly⟩
  · exact writeStatus_keeps_inv v hs
  · exact submit_keeps_inv v hs hrst
  · exact ⟨⟨hc, hm⟩, hcan, hlen, inflightOk_of_idle (inflight_of_not_busy hb), herr, hrstfly⟩
  · exact ⟨⟨hc, hm⟩, hcan, hlen, inflightOk_of_idle (inflight_of_not_busy hb), herr, hrstfly⟩

theorem hostStep_keeps_inv {x : Access} {s t : State} (h : hostStep x s = .next t) (hs : s.Inv) : t.Inv := by
  rcases hostStep_cases h with ⟨-, rfl⟩ | ⟨b, -, rfl⟩ | ⟨_, off, -, -, -, rfl⟩ | ⟨_, v, off, -, -, hrst, rfl⟩
  · exact hs
  · exact setRst_keeps_inv b hs
  · rw [busRead_eq]
    exact hs
  · exact busWrite_keeps_inv off v hs hrst

/-! ### The datapath and the step -/

/-- R602, R604: the command in flight has passed its checks, so the datapath completes it. -/
theorem datapathStep_keeps_inv {s t : State} (h : datapathStep s = .next t) (hs : s.Inv) : t.Inv := by
  rcases datapathStep_cases s with ⟨-, hd⟩ | ⟨i, hi, hd⟩
  · obtain rfl : s = t := by simpa [hd] using h
    exact hs
  · obtain ⟨-, -, -, hfly, -, -⟩ := id hs
    exact exec_keeps_inv ((inflightOk_iff s).1 hfly i hi).1 (hd ▸ h) hs

/-- Settles O9: an access of the host keeps the invariant, and so does the datapath's step. -/
theorem stepKeepsTheInvariant : Obligations.StepKeepsTheInvariant := by
  intro s t hs h
  rcases step_cases h with ⟨-, hd⟩ | ⟨u, rest, t', -, hhost, ⟨-, rfl⟩ | ⟨-, hd⟩⟩
  · exact datapathStep_keeps_inv hd hs
  · exact hostStep_keeps_inv hhost hs
  · exact datapathStep_keeps_inv hd (hostStep_keeps_inv hhost hs)

end Sys2Proof.Machine
end

section
/-! PROOFS. Reads and writes of the registers with a fixed offset (20_memory.md R205, R212, R213): CTRL, STATUS, CMD,
the length registers and the read-only ones. -/

namespace Sys2Proof.Machine

open Sys2Proof

/-! ### The words of PARAM and of a length register -/

/-- R111: version 0x01 and limb width 0x0F above LMAX. -/
theorem paramWord_toNat {cfg : Config} (h : cfg.wf = true) : (paramWord cfg).toNat = 0x010F0000 + cfg.lmax := by
  have hlt : cfg.lmax < 65536 := lt_of_le_of_lt (by unfold Config.rmax; omega) (Config.rmax_lt h)
  simp only [paramWord]
  rw [append_toNat, append_toNat]
  simp [Nat.mod_eq_of_lt hlt]

/-- R102, R105: SIGN weighs 2^31, and the reserved bits between it and LEN are 0. -/
theorem lenWord_toNat (x : BigReg) : x.lenWord.toNat = x.sign.toNat * 2 ^ 31 + x.len.toNat := by
  have h : x.lenWord.toNat = ((BitVec.ofBool x.sign ++ 0#15 ++ x.len : BitVec (1 + 15 + 16))).toNat := rfl
  rw [h, append_toNat, append_toNat]
  simp
  omega

/-- The fields of a length register side by side give back the word. -/
theorem word_eq_fields (v : Word) : v = BitVec.ofBool v[31] ++ v.extractLsb' 16 15 ++ v.extractLsb' 0 16 := by
  have hbit : BitVec.ofBool v[31] = v.extractLsb' 31 1 := by
    ext i hi
    obtain rfl : i = 0 := by omega
    simp
  rw [hbit, BitVec.extractLsb'_append_extractLsb'_eq_extractLsb' (show 31 = 16 + 15 from rfl),
    BitVec.extractLsb'_append_extractLsb'_eq_extractLsb' (show 16 = 0 + 16 from rfl)]
  exact BitVec.extractLsb'_eq_self.symm

/-- R102: a length register written with `v` reads back SIGN and LEN of `v`. -/
theorem lenWord_writeLen (x : BigReg) (v : Word) : (x.writeLen v).lenWord = v &&& 0x8000FFFF := by
  have hmask : (0x8000FFFF : Word) = BitVec.allOnes 1 ++ 0#15 ++ BitVec.allOnes 16 := rfl
  conv_rhs => rw [word_eq_fields v, hmask, BitVec.and_append, BitVec.and_append, BitVec.and_allOnes, BitVec.and_allOnes,
    BitVec.and_zero]
  rfl

/-! ### STATUS (R108) -/

theorem statusWord_toNat (s : State) :
    s.statusWord.toNat = (errBits s.errcode).toNat * 2 ^ 8 + s.cmp.bits.toNat * 2 ^ 6 + s.nFlag.toNat * 2 ^ 5 +
      s.zFlag.toNat * 2 ^ 4 + s.ovr.toNat * 2 ^ 3 + s.err.toNat * 2 ^ 2 + s.done.toNat * 2 + s.busy.toNat := by
  have h : s.statusWord.toNat =
      (0#20 ++ errBits s.errcode ++ s.cmp.bits ++ BitVec.ofBool s.nFlag ++ BitVec.ofBool s.zFlag ++
        BitVec.ofBool s.ovr ++ BitVec.ofBool s.err ++ BitVec.ofBool s.done ++ BitVec.ofBool s.busy :
        BitVec (20 + 4 + 2 + 1 + 1 + 1 + 1 + 1 + 1)).toNat := rfl
  simp only [h, append_toNat, BitVec.toNat_ofBool, BitVec.toNat_ofNat]
  omega

theorem getElem_eq_of_toNat {w : Word} {x : Bool} {k : Nat} (hk : k < 32) (h : w.toNat / 2 ^ k % 2 = x.toNat) :
    w[k] = x := by
  rw [BitVec.getElem_eq_testBit_toNat, Nat.testBit_eq_decide_div_mod_eq, h]
  cases x <;> rfl

theorem extractLsb'_eq_of_toNat {w : Word} {n k : Nat} {x : BitVec n} (h : w.toNat / 2 ^ k % 2 ^ n = x.toNat) :
    w.extractLsb' k n = x := by
  apply BitVec.eq_of_toNat_eq
  rw [BitVec.extractLsb'_toNat, Nat.shiftRight_eq_div_pow, h]

theorem status_fields (s : State) :
    s.statusWord[0] = s.busy ∧ s.statusWord[1] = s.done ∧ s.statusWord[2] = s.err ∧ s.statusWord[3] = s.ovr ∧
      s.statusWord[4] = s.zFlag ∧ s.statusWord[5] = s.nFlag ∧ s.statusWord.extractLsb' 6 2 = s.cmp.bits ∧
      s.statusWord.extractLsb' 8 4 = errBits s.errcode ∧ s.statusWord.extractLsb' 12 20 = 0 := by
  have hw := statusWord_toNat s
  have hk := (errBits s.errcode).isLt
  have hc := s.cmp.bits.isLt
  have hn := s.nFlag.toNat_lt
  have hz := s.zFlag.toNat_lt
  have ho := s.ovr.toNat_lt
  have he := s.err.toNat_lt
  have hd := s.done.toNat_lt
  have hb := s.busy.toNat_lt
  refine ⟨getElem_eq_of_toNat _ ?_, getElem_eq_of_toNat _ ?_, getElem_eq_of_toNat _ ?_, getElem_eq_of_toNat _ ?_,
    getElem_eq_of_toNat _ ?_, getElem_eq_of_toNat _ ?_, extractLsb'_eq_of_toNat ?_, extractLsb'_eq_of_toNat ?_,
    extractLsb'_eq_of_toNat ?_⟩
  all_goals simp; omega

/-- R120: STATUS is 0x10 after reset, Z being set. -/
theorem statusWord_reset {s : State} (hidle : s.inflight = none) (hd : s.done = false) (he : s.err = false)
    (ho : s.ovr = false) (hz : s.r.len = 0) (hn : s.r.sign = false) (hc : s.cmp = .none) (hk : s.errcode = .none) :
    s.statusWord = 0x00000010 := by
  simp [State.statusWord, State.busy, State.zFlag, State.nFlag, hidle, hd, he, ho, hz, hn, hc, hk, errBits, Cmp.bits]

/-! ### Writes -/

theorem busWrite_ctrl (s : State) (v : Word) : s.busWrite 0x00008 v = s.writeCtrl v := rfl

theorem busWrite_cmd (s : State) (w : Word) : s.busWrite 0x0000C w = s.submit w := rfl

theorem busWrite_status (s : State) (v : Word) : s.busWrite 0x00010 v = s.writeStatus v := rfl

theorem writeCtrl_of_srst {v : Word} (s : State) (h : v[1] = true) : s.writeCtrl v = s.toReset := by
  simp [State.writeCtrl, h]

theorem writeCtrl_of_not_srst {v : Word} (s : State) (h : v[1] = false) : s.writeCtrl v = { s with ie := v[0] } := by
  simp [State.writeCtrl, h]

theorem busWrite_lena_idle {s : State} (h : s.inflight = none) (v : Word) :
    s.busWrite 0x00014 v = s.setA (s.a.writeLen v) := by
  have hw : s.busWrite 0x00014 v = if s.busy then s.drop else s.setA (s.a.writeLen v) := rfl
  simpa [busy_of_idle h] using hw

theorem busWrite_lenb_idle {s : State} (h : s.inflight = none) (v : Word) :
    s.busWrite 0x00018 v = s.setB (s.b.writeLen v) := by
  have hw : s.busWrite 0x00018 v = if s.busy then s.drop else s.setB (s.b.writeLen v) := rfl
  simpa [busy_of_idle h] using hw

/-! ### Reads -/

/-- R712: a register that no command writes has no unspecified bits, busy or idle. -/
theorem unspecified_eq_zero {s : State} {reg : RegName} (h : ∀ i, pendingMask i s.cfg reg = 0) :
    s.unspecified reg = 0 := by
  unfold State.unspecified
  split
  · rfl
  · exact h _

theorem busRead_id (s : State) : (s.busRead 0x00000).rdata = 0x4A534249 := by
  rw [busRead_exact (unspecified_eq_zero fun _ => rfl)]
  rfl

theorem busRead_param (s : State) : (s.busRead 0x00004).rdata = paramWord s.cfg := by
  rw [busRead_exact (unspecified_eq_zero fun _ => rfl)]
  rfl

theorem busRead_ctrl (s : State) : (s.busRead 0x00008).rdata = (BitVec.ofBool s.ie).setWidth 32 := by
  rw [busRead_exact (unspecified_eq_zero fun _ => rfl)]
  rfl

theorem busRead_cmd (s : State) : (s.busRead 0x0000C).rdata = 0 := by
  rw [busRead_exact (unspecified_eq_zero fun _ => rfl)]
  rfl

/-! ### The statements about single registers -/

/-- Settles O49: each field is a bit slice of the word's number, and a write clears field by field. -/
theorem statusFieldsAndWriteOneToClear : Obligations.StatusFieldsAndWriteOneToClear := by
  refine ⟨fun s => ?_, fun _ _ => rfl, statusWord_reset rfl rfl rfl rfl rfl rfl rfl rfl⟩
  obtain ⟨hbusy, hdone, herr, hovr, hz, hn, hcmp, hcode, hrsv⟩ := status_fields s
  refine ⟨hbusy, hdone, herr, hovr, hz, hn, hcmp.trans ?_, hcode.trans ?_, hrsv, fun hidle => ?_⟩
  · cases s.cmp <;> rfl
  · cases s.errcode <;> rfl
  · rw [busRead_idle _ hidle]
    rfl


/-- Settles O48: on an idle block the write is stored, and the read gives SIGN and LEN back. -/
theorem lengthRegistersReadBack : Obligations.LengthRegistersReadBack := by
  intro s v hidle
  rw [busWrite_lena_idle hidle, busWrite_lenb_idle hidle,
    busRead_idle (s := s.setA (s.a.writeLen v)) _ hidle, busRead_idle (s := s.setB (s.b.writeLen v)) _ hidle]
  exact ⟨⟨rfl, lenWord_writeLen s.a v⟩, rfl, lenWord_writeLen s.b v⟩

/-- Settles O50: the two kinds of CTRL write, by SRST. -/
theorem ctrlWriteSetsIeOrResets : Obligations.CtrlWriteSetsIeOrResets := by
  intro s v
  rw [busWrite_ctrl, busRead_ctrl]
  cases h1 : v[1] with
  | false =>
    rw [writeCtrl_of_not_srst s h1]
    refine ⟨fun _ => rfl, nofun, ?_⟩
    cases v[0] <;> rfl
  | true =>
    rw [writeCtrl_of_srst s h1]
    exact ⟨nofun, fun _ => ⟨rfl, rfl⟩, rfl⟩

/-- R120: what a reset leaves, when the reset input is deasserted afterwards. -/
theorem toReset_hasResetValues (s : State) : State.HasResetValues { s.toReset with rst := false } :=
  ⟨rfl, rfl, rfl, rfl, rfl, rfl, rfl, rfl, statusWord_reset rfl rfl rfl rfl rfl rfl rfl rfl, rfl, rfl, toReset_memory s⟩

theorem writeCtrl_hasResetValues {s : State} {v : Word} (hrst : s.rst = false) (h : v[1] = true) :
    (s.writeCtrl v).HasResetValues := by
  have heq : s.writeCtrl v = { s.toReset with rst := false } := by
    rw [writeCtrl_of_srst s h, ← hrst]
    rfl
  rw [heq]
  exact toReset_hasResetValues s

/-- Settles O51: each way to reset ends in a state that `toReset` or `resetWith` builds. -/
theorem everyResetLeavesTheResetValues : Obligations.EveryResetLeavesTheResetValues := by
  refine ⟨⟨rfl, rfl, rfl, rfl, rfl, rfl, rfl, rfl, rfl, rfl, rfl, reset_memory⟩, fun s hrst => ⟨fun v hv => ?_, ?_⟩⟩
  · rw [busWrite_ctrl]
    exact ⟨writeCtrl_hasResetValues hrst hv, by rw [writeCtrl_of_srst s hv]; rfl⟩
  · exact ⟨_, _, rfl, rfl, rfl, rfl, toReset_hasResetValues _, rfl⟩

/-- Settles O52: no command leaves bits of ID or PARAM unspecified, and no write reaches them. -/
theorem idAndParamAreConstants : Obligations.IdAndParamAreConstants := fun s _ hc =>
  ⟨busRead_id s, by rw [busRead_param, paramWord_toNat hc], rfl, rfl⟩

/-- Settles O53: the idle read is exact, and the words are those of R105 and R106. -/
theorem readOnlyRegistersReadTheirFields : Obligations.ReadOnlyRegistersReadTheirFields := by
  intro s v
  refine ⟨fun hidle => ?_, busRead_cmd s, rfl, rfl⟩
  rw [busRead_idle _ hidle, busRead_idle _ hidle]
  exact ⟨BitVec.toNat_setWidth_of_le (by decide), lenWord_toNat s.r⟩

end Sys2Proof.Machine
end
section
/-! PROOFS. What the host's accesses leave alone (10_state.md R118, 70_reset_and_hazards.md R710), the interrupt output
(R119, 60_exceptions.md R605, R606), and the step that runs a command (R602, R604, 70_reset_and_hazards.md R713). -/

namespace Sys2Proof.Machine

open Sys2Proof

/-! ### The host and the result -/

/-- No write but a soft reset changes R, SHOUT or CMP, and none changes the operands or the command while busy. -/
theorem busWrite_keeps_result {s : State} {off : Offset} {v : Word} (hc : decodeOffset off = .ctrl → v[1] = false) :
    (s.busWrite off v).r = s.r ∧ (s.busWrite off v).shout = s.shout ∧ (s.busWrite off v).cmp = s.cmp ∧
      (s.inflight ≠ none → (s.busWrite off v).a = s.a ∧ (s.busWrite off v).b = s.b ∧
        (s.busWrite off v).inflight = s.inflight) := by
  rcases busWrite_cases s off v with h | ⟨-, h⟩ | ⟨hd, hv, -⟩ | ⟨-, -, h⟩ | ⟨-, h⟩ | ⟨-, h⟩ | ⟨hb, x, -, h⟩ |
    ⟨hb, x, -, h⟩
  case inr.inr.inl =>
    rw [hc hd] at hv
    cases hv
  all_goals rw [h]
  · exact ⟨rfl, rfl, rfl, fun _ => ⟨rfl, rfl, rfl⟩⟩
  · exact ⟨rfl, rfl, rfl, fun _ => ⟨rfl, rfl, rfl⟩⟩
  · exact ⟨rfl, rfl, rfl, fun _ => ⟨rfl, rfl, rfl⟩⟩
  · exact ⟨rfl, rfl, rfl, fun _ => ⟨rfl, rfl, rfl⟩⟩
  · rcases submit_cases s v with ⟨-, h⟩ | ⟨-, code, -, h⟩ | ⟨hb, i, -, -, h⟩ <;> rw [h]
    · exact ⟨rfl, rfl, rfl, fun _ => ⟨rfl, rfl, rfl⟩⟩
    · exact ⟨rfl, rfl, rfl, fun _ => ⟨rfl, rfl, rfl⟩⟩
    · exact ⟨rfl, rfl, rfl, fun hbusy => absurd (inflight_of_not_busy hb) hbusy⟩
  · exact ⟨rfl, rfl, rfl, fun hbusy => absurd (inflight_of_not_busy hb) hbusy⟩
  · exact ⟨rfl, rfl, rfl, fun hbusy => absurd (inflight_of_not_busy hb) hbusy⟩

/-- Settles O43: of the accesses only a write changes more than the read data, and CTRL stands at word 2. -/
theorem onlyCompletionChangesTheResult : Obligations.OnlyCompletionChangesTheResult := by
  intro x s t h hrst hsrst
  rcases hostStep_cases h with ⟨-, rfl⟩ | ⟨b, rfl, -⟩ | ⟨_, off, -, -, -, rfl⟩ | ⟨addr, v, off, rfl, hwin, -, rfl⟩
  · exact ⟨rfl, rfl, rfl, fun _ => ⟨rfl, rfl, rfl⟩⟩
  · exact absurd rfl (hrst b)
  · rw [busRead_eq]
    exact ⟨rfl, rfl, rfl, fun _ => ⟨rfl, rfl, rfl⟩⟩
  · exact busWrite_keeps_result fun hd => hsrst addr off v rfl hwin (word_of_decodeOffset hd nofun)

/-! ### The interrupt output -/

theorem irq_eq {s : State} (h : s.rst = false) : s.irq = (s.ie && s.done) := by
  simp [State.irq, h]

/-- R603, R604: a command, completed or refused, ends with DONE set. -/
theorem exec_sets_done {i : Instr} {s t : State} (h : exec i s = .next t) :
    t.rst = s.rst ∧ t.ie = s.ie ∧ t.done = true := by
  rcases exec_cases i s with ⟨code, -, he⟩ | ⟨-, u, hw, he⟩
  · obtain rfl : s.refuse code = t := by simpa [he] using h
    exact ⟨rfl, rfl, rfl⟩
  · obtain rfl : u.complete = t := by simpa [he] using h
    rcases hw with ⟨-, rfl⟩ | ⟨-, rfl⟩ | ⟨-, rfl⟩ | ⟨-, _, _, _, _, rfl, -, -⟩ <;> exact ⟨rfl, rfl, rfl⟩

theorem exec_irq {i : Instr} {s t : State} (hrst : s.rst = false) (h : exec i s = .next t) : t.irq = s.ie := by
  obtain ⟨hr, hie, hdone⟩ := exec_sets_done h
  rw [irq_eq (hr.trans hrst), hie, hdone, Bool.and_true]

theorem refuse_irq {s : State} (hrst : s.rst = false) (code : ErrCode) : (s.refuse code).irq = s.ie := by
  simp [irq_eq, hrst]

/-- R606: a CMD write to an idle block is refused, and raises irq to IE, or accepted, and lowers it. -/
theorem submit_irq {s : State} (w : Word) (hrst : s.rst = false) (hidle : s.inflight = none) :
    ((s.submit w).inflight = none → (s.submit w).irq = s.ie) ∧
      ((s.submit w).inflight ≠ none → (s.submit w).irq = false) := by
  rcases submit_cases s w with ⟨hb, -⟩ | ⟨-, code, -, h⟩ | ⟨-, i, -, -, h⟩
  · rw [busy_of_idle hidle] at hb
    cases hb
  · rw [h]
    exact ⟨fun _ => refuse_irq hrst code, fun hbusy => absurd hidle hbusy⟩
  · rw [h]
    exact ⟨nofun, fun _ => by simp [irq_eq, hrst]⟩

theorem submit_of_refused_word {s : State} {w : Word} {code : ErrCode} (hidle : s.inflight = none)
    (h : decode w = .refuse code) : s.submit w = s.refuse code := by
  simp [State.submit, busy_of_idle hidle, h]

theorem submit_of_busy {s : State} (w : Word) (h : s.inflight ≠ none) : s.submit w = s.drop := by
  have hb : s.busy = true := by simpa [State.busy, Option.isSome_iff_ne_none] using h
  simp [State.submit, hb]

/-- Settles O58: each access says what it does to IE and DONE. -/
theorem interruptFollowsDoneAndIe : Obligations.InterruptFollowsDoneAndIe := by
  intro s w v i hrst
  rw [busWrite_cmd, busWrite_status, busWrite_ctrl]
  refine ⟨irq_eq hrst, fun _ => exec_irq hrst, fun hidle => (submit_irq w hrst hidle).1, fun hidle code hd => ?_,
    fun hidle => (submit_irq w hrst hidle).2, fun hv => ?_, fun hv => ?_, fun hv => ?_, fun hv => ?_, fun hbusy => ?_⟩
  · rw [submit_of_refused_word hidle hd, refuse_irq hrst]
  · simp [irq_eq, hrst, hv]
  · simp [irq_eq, hrst, hv]
  · simp [writeCtrl_of_srst s hv, irq_eq, hrst]
  · rw [writeCtrl_of_not_srst s hv]
    exact irq_eq hrst
  · rw [submit_of_busy w hbusy]
    rfl

/-! ### The step that runs a command -/

/-- R602, R604: acceptance writes nothing a command reads, and nothing its completion does not write again. -/
theorem exec_accept {i : Instr} {s : State} (h : acceptError i s = none) : exec i (s.accept i) = exec i s := by
  have h' : acceptError i (s.accept i) = none := h
  rcases i.kind_cases with rfl | rfl | rfl | hi
  · rw [exec_nop_of_accepted h, exec_nop_of_accepted h']
    rfl
  · rw [exec_movra_of_accepted h, exec_movra_of_accepted h']
    rfl
  · rw [exec_movrb_of_accepted h, exec_movrb_of_accepted h']
    rfl
  · obtain ⟨m, sg, c, out, -, he, he'⟩ := exec_writesR_congr hi h h' (.refl _) (.refl _)
    rw [he, he']
    rfl

theorem datapathStep_of_inflight {s : State} {i : Instr} (h : s.inflight = some i) : datapathStep s = exec i s := by
  simp [datapathStep, h]

theorem datapathStep_of_idle {s : State} (h : s.inflight = none) : datapathStep s = .next s := by
  simp [datapathStep, h]

/-- A legal word submitted to an idle block and completed at once is the command, refused or run. -/
theorem datapathStep_submit {s : State} {w : Word} {i : Instr} (hidle : s.inflight = none) (hd : decode w = .cmd i) :
    datapathStep (s.submit w) = exec i s := by
  cases ha : acceptError i s with
  | some code =>
    have hsub : s.submit w = s.refuse code := by simp [State.submit, busy_of_idle hidle, hd, ha]
    rw [hsub, exec_of_refused ha]
    exact datapathStep_of_idle hidle
  | none =>
    have hsub : s.submit w = s.accept i := by simp [State.submit, busy_of_idle hidle, hd, ha]
    rw [hsub, datapathStep_of_inflight (s.accept_inflight i), exec_accept ha]

theorem hostStep_write_cmd {s : State} (w : Word) (hrst : s.rst = false) :
    hostStep (.write (s.cfg.base + 0x0C) w) s = .next (s.submit w) := by
  simp only [hostStep, windowOffset_cmd, hrst, busWrite_cmd, Bool.false_eq_true, if_false]

theorem takeTurn_write_cmd {s : State} {w : Word} {i : Instr} (hrst : s.rst = false) (hidle : s.inflight = none)
    (hd : decode w = .cmd i) : takeTurn ⟨.write (s.cfg.base + 0x0C) w, true⟩ s = exec i s := by
  simp only [takeTurn, hostStep_write_cmd w hrst, if_true, datapathStep_submit hidle hd]

theorem step_of_turn {s : State} {u : Turn} {rest : List Turn} (h : s.inputs = u :: rest) :
    step s = takeTurn u { s with inputs := rest } := by
  simp [step, h]

/-- Settles O6: the turn's write submits the word, and the datapath's step then is the command. -/
theorem stepRunsTheDecodedCommand : Obligations.StepRunsTheDecodedCommand := by
  refine ⟨fun s w rest i hin hrst hidle hd => ?_, fun s rest i hfly => ⟨fun hin => ?_, fun hin => ?_⟩,
    fun s w i hw hd => ?_⟩
  · rw [step_of_turn hin]
    exact takeTurn_write_cmd (s := { s with inputs := rest }) hrst hidle hd
  · simp [step, hin, datapathStep_of_inflight hfly]
  · rw [step_of_turn hin]
    exact datapathStep_of_inflight hfly
  · have hword : BitVec.ofNat 32 (w % 2 ^ 32) = BitVec.ofNat 32 w := by rw [Nat.mod_eq_of_lt hw]
    rw [step_of_turn rfl, hword]
    exact takeTurn_write_cmd (s := { s with inflight := none, rst := false }) rfl rfl hd

end Sys2Proof.Machine
end

section
/-! PROOFS. The register window as a memory (20_memory.md): misaligned offsets (R203), the limb windows (R206 to R209),
reserved offsets and bits (R210, R211), reads (R212), and the accesses the model stops on (R202, R215). -/

namespace Sys2Proof.Machine

open Sys2Proof

/-! ### Accesses that answer (60_exceptions.md R600, 70_reset_and_hazards.md R701) -/

/-- R600: a command is refused or completed, so the datapath always answers. -/
theorem datapathStep_answers (s : State) : ∃ t, datapathStep s = .next t := by
  rcases datapathStep_cases s with ⟨-, h⟩ | ⟨i, -, h⟩
  · exact ⟨s, h⟩
  · rcases exec_cases i s with ⟨code, -, he⟩ | ⟨-, u, -, he⟩
    · exact ⟨s.refuse code, h.trans he⟩
    · exact ⟨u.complete, h.trans he⟩

/-- R202, R701: an access to the window answers when it is in the window and reset is not asserted. -/
theorem window_legal_iff {cfg : Config} {rst : Bool} {addr : Nat} :
    ((windowOffset cfg addr).isSome && !rst) = true ↔ (∃ off, windowOffset cfg addr = some off) ∧ rst = false := by
  simp [Option.isSome_iff_exists]

theorem hostStep_answers_iff (x : Access) (s : State) :
    (∃ t, hostStep x s = .next t) ↔ x.legal s.cfg s.rst = true := by
  constructor
  · rintro ⟨t, h⟩
    rcases hostStep_cases h with ⟨rfl, -⟩ | ⟨b, rfl, -⟩ | ⟨addr, off, rfl, hwin, hrst, -⟩ |
      ⟨addr, v, off, rfl, hwin, hrst, -⟩
    · rfl
    · rfl
    · exact window_legal_iff.2 ⟨⟨off, hwin⟩, hrst⟩
    · exact window_legal_iff.2 ⟨⟨off, hwin⟩, hrst⟩
  · intro h
    cases x with
    | idle => exact ⟨s, rfl⟩
    | rst b => exact ⟨s.setRst b, rfl⟩
    | narrow addr => simp [Access.legal] at h
    | read addr =>
      obtain ⟨⟨off, hwin⟩, hrst⟩ := window_legal_iff.1 h
      exact ⟨s.busRead off, by simp [hostStep, hwin, hrst]⟩
    | write addr v =>
      obtain ⟨⟨off, hwin⟩, hrst⟩ := window_legal_iff.1 h
      exact ⟨s.busWrite off v, by simp [hostStep, hwin, hrst]⟩

/-- A turn answers exactly when its access does. -/
theorem takeTurn_answers_iff (u : Turn) (s : State) :
    (∃ t, takeTurn u s = .next t) ↔ ∃ t, hostStep u.access s = .next t := by
  unfold takeTurn
  cases h : hostStep u.access s with
  | fault e => simp
  | refused e => simp
  | next s' =>
    cases u.datapath with
    | false => simp
    | true => simpa using datapathStep_answers s'

/-- Settles O11: the datapath always answers, and an access answers exactly when it is legal. -/
theorem stepStopsOnlyOnIllegalAccesses : Obligations.StepStopsOnlyOnIllegalAccesses := by
  refine fun s => ⟨fun hin => ?_, fun u rest hin => ?_⟩
  · simpa [step, hin] using datapathStep_answers s
  · rw [step_of_turn hin, takeTurn_answers_iff]
    exact hostStep_answers_iff u.access { s with inputs := rest }

/-! ### The word an offset stands in (R203) -/

/-- R203: an offset is decoded by its word, bits [19:2], alone. -/
theorem decodeOffset_congr {off off' : Offset} (h : off.toNat / 4 = off'.toNat / 4) :
    decodeOffset off = decodeOffset off' := by
  have hwin : off.toNat / 0x40000 = off'.toNat / 0x40000 := by omega
  simp only [decodeOffset, hwin, h]

theorem aligned_word (off : Offset) : (off &&& 0xFFFFC).toNat / 4 = off.toNat / 4 := by
  have hlt := off.isLt
  have hmask : (0xFFFFC : Offset).toNat / 2 ^ 2 = 2 ^ 18 - 1 := rfl
  rw [BitVec.toNat_and, show 4 = 2 ^ 2 from rfl, Nat.and_div_two_pow, hmask, Nat.and_two_pow_sub_one_eq_mod]
  omega

/-- Settles O44: reads and writes see an offset only through the register it decodes to. -/
theorem misalignedOffsetsAlias : Obligations.MisalignedOffsetsAlias := by
  intro s off v
  have hreg : decodeOffset (off &&& 0xFFFFC) = decodeOffset off := decodeOffset_congr (aligned_word off)
  simp only [State.busRead, State.busWrite, hreg, and_self]

/-! ### Reads (R212) -/

/-- Settles O54: a read writes the read data and the draw counter, and an exact one the read data only. -/
theorem readsHaveNoSideEffects : Obligations.ReadsHaveNoSideEffects := by
  refine fun s off => ⟨⟨_, _, busRead_eq s off⟩, fun hexact => ?_⟩
  have hread := busRead_exact hexact
  have hagain : (s.busRead off).unspecified (decodeOffset off) = 0 := by
    rw [hread]
    exact hexact
  rw [busRead_exact hagain, hread]
  exact ⟨rfl, rfl⟩

/-! ### The offsets of the limb registers (R205) -/

/-- LMAX is at most 32767 (00_scope.md R8), so the limbs of A, B and R stand within their windows. -/
theorem Config.lmax_le {c : Config} (h : c.wf = true) : c.lmax ≤ 32767 := by
  simp only [Config.wf, Bool.and_eq_true, decide_eq_true_eq] at h
  exact h.1.2

theorem limbOffset_toNat {base i : Nat} (h : base + 4 * i < 2 ^ 20) :
    (BitVec.ofNat 20 (base + 4 * i)).toNat = base + 4 * i := by
  rw [BitVec.toNat_ofNat, Nat.mod_eq_of_lt h]

theorem decodeOffset_limbA {i : Nat} (h : i < 0x10000) :
    decodeOffset (BitVec.ofNat 20 (0x40000 + 4 * i)) = .limbA i := by
  have hoff := limbOffset_toNat (base := 0x40000) (i := i) (by omega)
  have hidx : (0x40000 + 4 * i) / 4 - 0x10000 = i := by omega
  rw [decodeOffset_windowA (by omega) (by omega), hoff, hidx]

theorem decodeOffset_limbB {i : Nat} (h : i < 0x10000) :
    decodeOffset (BitVec.ofNat 20 (0x80000 + 4 * i)) = .limbB i := by
  have hoff := limbOffset_toNat (base := 0x80000) (i := i) (by omega)
  have hidx : (0x80000 + 4 * i) / 4 - 0x20000 = i := by omega
  rw [decodeOffset_windowB (by omega) (by omega), hoff, hidx]

theorem decodeOffset_limbR {i : Nat} (h : i < 0x10000) :
    decodeOffset (BitVec.ofNat 20 (0xC0000 + 4 * i)) = .limbR i := by
  have hoff := limbOffset_toNat (base := 0xC0000) (i := i) (by omega)
  have hidx : (0xC0000 + 4 * i) / 4 - 0x30000 = i := by omega
  rw [decodeOffset_windowR (by omega), hoff, hidx]

/-! ### Accesses by register name -/

theorem busRead_idle_rdata {s : State} {off : Offset} {reg : RegName} (hidle : s.inflight = none)
    (hreg : decodeOffset off = reg) : (s.busRead off).rdata = s.regWord reg := by
  rw [busRead_idle off hidle, hreg]

theorem busWrite_eq {s : State} {off : Offset} {reg : RegName} (hreg : decodeOffset off = reg) (v : Word) :
    s.busWrite off v = s.writeReg v reg := by
  rw [State.busWrite, hreg]

/-! ### Limb registers (R206 to R210) -/

theorem limbWord_of_lt (xs : List Limb) {size i : Nat} (h : i < size) :
    limbWord xs size i = (xs.getD i 0).setWidth 32 := if_pos h

theorem limbWord_of_le (xs : List Limb) {size i : Nat} (h : size ≤ i) : limbWord xs size i = 0 := if_neg (by omega)

/-- R210: a write past the end of a limb file has no effect. -/
theorem writeLimb_of_le (x : BigReg) {size i : Nat} (h : size ≤ i) (v : Word) : x.writeLimb size i v = x :=
  if_neg (by omega)

theorem writeLimb_of_lt (x : BigReg) {size i : Nat} (h : i < size) (v : Word) :
    x.writeLimb size i v = { x with limbs := x.limbs.set i (v.extractLsb' 0 15) } := if_pos h

theorem writeLimb_lenWord (x : BigReg) (size i : Nat) (v : Word) : (x.writeLimb size i v).lenWord = x.lenWord := by
  unfold BigReg.writeLimb
  split <;> rfl

theorem writeLimb_getD_self (x : BigReg) {size i : Nat} (hlen : x.limbs.length = size) (h : i < size) (v : Word) :
    (x.writeLimb size i v).limbs.getD i 0 = v.extractLsb' 0 15 := by
  rw [writeLimb_of_lt x h]
  simp [hlen, h]

/-- R209: bits [14:0] of a word, zero-extended. -/
theorem low15_setWidth (v : Word) : (v.extractLsb' 0 15).setWidth 32 = v &&& 0x7FFF := by
  apply BitVec.eq_of_toNat_eq
  have hmask : (0x7FFF : Word).toNat = 2 ^ 15 - 1 := rfl
  rw [BitVec.toNat_and, hmask, Nat.and_two_pow_sub_one_eq_mod, BitVec.toNat_setWidth_of_le (by decide),
    BitVec.extractLsb'_toNat, Nat.shiftRight_zero]

theorem limbWord_writeLimb_self (x : BigReg) {size i : Nat} (hlen : x.limbs.length = size) (h : i < size) (v : Word) :
    limbWord (x.writeLimb size i v).limbs size i = v &&& 0x7FFF := by
  rw [limbWord_of_lt _ h, writeLimb_getD_self x hlen h, low15_setWidth]

theorem limbWord_writeLimb_ne (x : BigReg) (size : Nat) {i j : Nat} (h : i ≠ j) (v : Word) :
    limbWord (x.writeLimb size i v).limbs size j = limbWord x.limbs size j := by
  by_cases hi : i < size
  · simp [writeLimb_of_lt x hi, limbWord, List.getElem?_set_ne h]
  · rw [writeLimb_of_le x (by omega)]

/-! ### Writes to the operand windows of an idle block (R206, R207) -/

theorem writeReg_limbA_idle {s : State} (h : s.inflight = none) (i : Nat) (v : Word) :
    s.writeReg v (.limbA i) = s.setA (s.a.writeLimb s.cfg.lmax i v) := by
  simp [State.writeReg, busy_of_idle h]

theorem writeReg_limbB_idle {s : State} (h : s.inflight = none) (i : Nat) (v : Word) :
    s.writeReg v (.limbB i) = s.setB (s.b.writeLimb s.cfg.lmax i v) := by
  simp [State.writeReg, busy_of_idle h]

/-- R206: a write of A[i] shows in no other register of the window. -/
theorem regWord_setA_writeLimb (s : State) {i : Nat} (v : Word) {reg : RegName} (h : reg ≠ .limbA i) :
    (s.setA (s.a.writeLimb s.cfg.lmax i v)).regWord reg = s.regWord reg := by
  cases reg with
  | limbA j => exact limbWord_writeLimb_ne s.a s.cfg.lmax (fun hij => h (congrArg _ hij.symm)) v
  | lena => exact writeLimb_lenWord s.a s.cfg.lmax i v
  | _ => rfl

/-- R207: a write of B[i] shows in no other register of the window. -/
theorem regWord_setB_writeLimb (s : State) {i : Nat} (v : Word) {reg : RegName} (h : reg ≠ .limbB i) :
    (s.setB (s.b.writeLimb s.cfg.lmax i v)).regWord reg = s.regWord reg := by
  cases reg with
  | limbB j => exact limbWord_writeLimb_ne s.b s.cfg.lmax (fun hij => h (congrArg _ hij.symm)) v
  | lenb => exact writeLimb_lenWord s.b s.cfg.lmax i v
  | _ => rfl

/-- Settles O45: the write sets limb i of one operand, and the idle read of its offset shows that limb. -/
theorem operandLimbWriteReadsBack : Obligations.OperandLimbWriteReadsBack := by
  rintro s i v ⟨hcfg, hlenA, hlenB, -⟩ hidle hi
  have hwin : i < 0x10000 := by have := Config.lmax_le hcfg; omega
  constructor
  · have hreg := decodeOffset_limbA hwin
    rw [busWrite_eq hreg, writeReg_limbA_idle hidle]
    refine ⟨writeLimb_getD_self s.a hlenA hi v, ?_, fun reg => regWord_setA_writeLimb s v⟩
    rw [busRead_idle_rdata (s.setA_inflight _ ▸ hidle) hreg]
    exact limbWord_writeLimb_self s.a hlenA hi v
  · have hreg := decodeOffset_limbB hwin
    rw [busWrite_eq hreg, writeReg_limbB_idle hidle]
    refine ⟨writeLimb_getD_self s.b hlenB hi v, ?_, fun reg => regWord_setB_writeLimb s v⟩
    rw [busRead_idle_rdata (s.setB_inflight _ ▸ hidle) hreg]
    exact limbWord_writeLimb_self s.b hlenB hi v

/-- Settles O46: the offset decodes to R[i], which no write changes. -/
theorem resultWindowIsReadOnly : Obligations.ResultWindowIsReadOnly := by
  rintro s i v ⟨hcfg, -⟩ hi
  have hreg := decodeOffset_limbR (i := i) (by have := Config.rmax_lt hcfg; omega)
  exact ⟨fun hidle => (busRead_idle_rdata hidle hreg).trans (limbWord_of_lt s.r.limbs hi), busWrite_eq hreg v⟩

/-! ### Reserved offsets and indices (R210) -/

theorem decodeOffset_reserved {off : Offset} (h1 : 0x00024 ≤ off.toNat) (h2 : off.toNat < 0x40000) :
    decodeOffset off = .reserved := by
  have hwin : off.toNat / 0x40000 = 0 := by omega
  have hidx : off.toNat / 4 % 0x10000 = off.toNat / 4 - 9 + 9 := by omega
  simp only [decodeOffset, hwin, hidx]

/-- R210: the registers with no cell behind them, which read 0 and ignore writes: a reserved offset, or a limb index
past the end of its file. -/
def RegName.Unused (cfg : Config) : RegName → Prop
  | .reserved => True
  | .limbA i | .limbB i => cfg.lmax ≤ i
  | .limbR i => cfg.rmax ≤ i
  | .id | .param | .ctrl | .cmd | .status | .lena | .lenb | .lenr | .shout => False

theorem regWord_of_unused {s : State} {reg : RegName} (h : reg.Unused s.cfg) : s.regWord reg = 0 := by
  cases reg with
  | reserved => rfl
  | limbA i => exact limbWord_of_le _ h
  | limbB i => exact limbWord_of_le _ h
  | limbR i => exact limbWord_of_le _ h
  | _ => exact h.elim

theorem writeReg_of_unused {s : State} {reg : RegName} (hidle : s.inflight = none) (h : reg.Unused s.cfg) (v : Word) :
    s.writeReg v reg = s := by
  cases reg with
  | reserved => rfl
  | limbR i => rfl
  | limbA i =>
    rw [writeReg_limbA_idle hidle, writeLimb_of_le _ h]
    rfl
  | limbB i =>
    rw [writeReg_limbB_idle hidle, writeLimb_of_le _ h]
    rfl
  | _ => exact h.elim

theorem decodeOffset_unused {cfg : Config} {off : Offset}
    (h : (0x00024 ≤ off.toNat ∧ off.toNat < 0x40000) ∨
      (0x40000 + 4 * cfg.lmax ≤ off.toNat ∧ off.toNat < 0x80000) ∨
      (0x80000 + 4 * cfg.lmax ≤ off.toNat ∧ off.toNat < 0xC0000) ∨ 0xC0000 + 4 * cfg.rmax ≤ off.toNat) :
    (decodeOffset off).Unused cfg := by
  rcases h with ⟨h1, h2⟩ | ⟨h1, h2⟩ | ⟨h1, h2⟩ | h1
  · rw [decodeOffset_reserved h1 h2]
    trivial
  · rw [decodeOffset_windowA (by omega) h2]
    change cfg.lmax ≤ off.toNat / 4 - 0x10000
    omega
  · rw [decodeOffset_windowB (by omega) h2]
    change cfg.lmax ≤ off.toNat / 4 - 0x20000
    omega
  · rw [decodeOffset_windowR (by omega)]
    change cfg.rmax ≤ off.toNat / 4 - 0x30000
    omega

/-! ### Reserved bits (10_state.md R121, 20_memory.md R209, R211) -/

/-- The reserved bits of a register. -/
def RegName.reservedMask : RegName → Word
  | .ctrl => 0xFFFFFFFE
  | .status => 0xFFFFF000
  | .lena | .lenb | .lenr => 0x7FFF0000
  | .shout | .limbA _ | .limbB _ | .limbR _ => 0xFFFF8000
  | .id | .param | .cmd | .reserved => 0

theorem and_high_bits_eq_zero {w : Word} {k : Nat} (h : w.toNat < 2 ^ k) : w &&& (BitVec.allOnes 32 <<< k) = 0 := by
  ext i hi
  have hbit : k ≤ i → w[i] = false := fun hk => by
    rw [BitVec.getElem_eq_testBit_toNat]
    exact Nat.testBit_lt_two_pow (h.trans_le (Nat.pow_le_pow_right (by decide) hk))
  by_cases hk : i < k
  · simp [hk]
  · simp [hbit (by omega)]

theorem limb_and_reserved (x : Limb) : x.setWidth 32 &&& (0xFFFF8000 : Word) = 0 :=
  and_high_bits_eq_zero (k := 15) (by rw [BitVec.toNat_setWidth_of_le (by decide)]; exact x.isLt)

theorem limbWord_and_reserved (xs : List Limb) (size i : Nat) : limbWord xs size i &&& 0xFFFF8000 = 0 := by
  unfold limbWord
  split
  · exact limb_and_reserved _
  · rfl

theorem lenWord_and_reserved (x : BigReg) : x.lenWord &&& 0x7FFF0000 = 0 := by
  have hmask : (0x7FFF0000 : Word) = 0#1 ++ BitVec.allOnes 15 ++ 0#16 := rfl
  rw [hmask, BigReg.lenWord, BitVec.and_append, BitVec.and_append]
  simp

theorem statusWord_lt (s : State) : s.statusWord.toNat < 2 ^ 12 := by
  have hword := statusWord_toNat s
  have hcode := (errBits s.errcode).isLt
  have hcmp := s.cmp.bits.isLt
  have hn := s.nFlag.toNat_lt
  have hz := s.zFlag.toNat_lt
  have ho := s.ovr.toNat_lt
  have he := s.err.toNat_lt
  have hd := s.done.toNat_lt
  have hb := s.busy.toNat_lt
  omega

theorem ctrlWord_lt (s : State) : (s.regWord .ctrl).toNat < 2 ^ 1 := by
  rw [State.regWord, BitVec.toNat_setWidth_of_le (by decide)]
  exact (BitVec.ofBool s.ie).isLt

theorem regWord_and_reservedMask (s : State) (reg : RegName) : s.regWord reg &&& reg.reservedMask = 0 := by
  cases reg with
  | ctrl => exact and_high_bits_eq_zero (k := 1) (ctrlWord_lt s)
  | status => exact and_high_bits_eq_zero (statusWord_lt s)
  | lena => exact lenWord_and_reserved s.a
  | lenb => exact lenWord_and_reserved s.b
  | lenr => exact lenWord_and_reserved s.r
  | shout => exact limb_and_reserved s.shout
  | limbA i => exact limbWord_and_reserved _ _ i
  | limbB i => exact limbWord_and_reserved _ _ i
  | limbR i => exact limbWord_and_reserved _ _ i
  | _ => exact BitVec.and_zero

theorem ite_and_eq_zero {p : Prop} [Decidable p] {m r : Word} (h : m &&& r = 0) :
    (if p then m else 0) &&& r = 0 := by
  split
  · exact h
  · exact BitVec.zero_and

theorem limbMask_and_reserved : limbMask &&& 0xFFFF8000 = 0 := by decide

/-- R712 leaves fields unspecified, and no reserved bits (log 8). -/
theorem pendingMask_and_reservedMask (i : Instr) (cfg : Config) (reg : RegName) :
    pendingMask i cfg reg &&& reg.reservedMask = 0 := by
  cases reg with
  | shout =>
    cases i with
    | shr n => exact limbMask_and_reserved
    | _ => exact BitVec.zero_and
  | limbA k => exact ite_and_eq_zero limbMask_and_reserved
  | limbB k => exact ite_and_eq_zero limbMask_and_reserved
  | limbR k => exact ite_and_eq_zero limbMask_and_reserved
  | status => exact ite_and_eq_zero (by decide)
  | lena => exact ite_and_eq_zero (by decide)
  | lenb => exact ite_and_eq_zero (by decide)
  | lenr => exact ite_and_eq_zero (by decide)
  | _ => exact BitVec.zero_and

theorem unspecified_and_reservedMask (s : State) (reg : RegName) : s.unspecified reg &&& reg.reservedMask = 0 := by
  unfold State.unspecified
  split
  · exact BitVec.zero_and
  · exact pendingMask_and_reservedMask _ _ _

/-- Bits clear in a word and in the mask of its bits that a draw `f` replaces stay clear. -/
theorem merge_and_eq_zero {w m r : Word} (f : Word) (hw : w &&& r = 0) (hm : m &&& r = 0) :
    ((w &&& ~~~m) ||| (f &&& m)) &&& r = 0 := by
  have hkept : w &&& ~~~m &&& r = 0 := by
    rw [BitVec.and_assoc, BitVec.and_comm (~~~m), ← BitVec.and_assoc, hw]
    exact BitVec.zero_and
  have hdrawn : f &&& m &&& r = 0 := by
    rw [BitVec.and_assoc, hm]
    exact BitVec.and_zero
  rw [BitVec.and_or_distrib_right, hkept, hdrawn]
  exact BitVec.or_zero

/-- R211: reserved bits read 0, whatever is in flight. -/
theorem busRead_and_reservedMask (s : State) (off : Offset) :
    (s.busRead off).rdata &&& (decodeOffset off).reservedMask = 0 := by
  have hword := regWord_and_reservedMask s (decodeOffset off)
  have hfree := unspecified_and_reservedMask s (decodeOffset off)
  simp only [State.busRead]
  split
  · exact hword
  · exact merge_and_eq_zero _ hword hfree

/-- Settles O47: the offsets decode to registers with no cell, and a read leaves the reserved bits of any register 0. -/
theorem reservedIsReadZeroWriteIgnored : Obligations.ReservedIsReadZeroWriteIgnored := by
  intro s off v _
  have hrsv := busRead_and_reservedMask s off
  refine ⟨fun hidle h => ?_, fun h => ?_, fun h => ?_, fun h => ?_, fun h => ?_⟩
  · have hunused := decodeOffset_unused h
    exact ⟨(busRead_idle_rdata hidle rfl).trans (regWord_of_unused hunused), writeReg_of_unused hidle hunused v⟩
  · rwa [decodeOffset_congr (off' := 0x00008) h] at hrsv
  · rwa [decodeOffset_congr (off' := 0x00010) h] at hrsv
  · rcases h with h | h | h
    · rwa [decodeOffset_congr (off' := 0x00014) h] at hrsv
    · rwa [decodeOffset_congr (off' := 0x00018) h] at hrsv
    · rwa [decodeOffset_congr (off' := 0x0001C) h] at hrsv
  · rcases h with h | h
    · rwa [decodeOffset_congr (off' := 0x00020) h] at hrsv
    · by_cases hA : off.toNat < 0x80000
      · rwa [decodeOffset_windowA h hA] at hrsv
      by_cases hB : off.toNat < 0xC0000
      · rwa [decodeOffset_windowB (by omega) hB] at hrsv
      · rwa [decodeOffset_windowR (by omega)] at hrsv

end Sys2Proof.Machine
end

section
/-! PROOFS. Command words: the decoder inverts the encoder, its three answers partition the words by R309's test, and a
refused word leaves its code in STATUS (30_encoding.md R300 to R309). -/

namespace Sys2Proof

/-! ### Rows of the opcode map (R303) -/

theorem Instr.opcode_lt (i : Instr) : i.opcode.toNat < 0x0F := by
  cases i <;> simp [Instr.opcode]

theorem Instr.isShift_iff (i : Instr) : i.isShift = true ↔ i.opcode.toNat = 0x09 ∨ i.opcode.toNat = 0x0A := by
  cases i <;> simp [Instr.isShift, Instr.opcode]

/-- R306: only SHL and SHR have an amount. -/
theorem Instr.shamt_of_not_shift {i : Instr} (h : i.isShift = false) : i.shamt = 0 := by
  cases i <;> simp_all [Instr.isShift, Instr.shamt]

/-- R307: well-formedness bounds the amount, which only SHL and SHR have. -/
theorem Instr.wf_iff (i : Instr) : i.wf = true ↔ i.shamt.toNat ≤ 15 := by
  cases i <;> simp [Instr.wf, Instr.shamt]

theorem commandOf_opcode_shamt (i : Instr) : commandOf i.opcode i.shamt = some i := by
  cases i <;> rfl

/-- R304: the map leaves out the opcodes from 0x0F on. -/
theorem le_of_commandOf_eq_none {op : BitVec 5} {n : BitVec 8} (h : commandOf op n = none) : 0x0F ≤ op.toNat := by
  unfold commandOf at h
  split at h
  case h_16 =>
    simp only [imp_false] at *
    omega
  all_goals cases h

/-! ### Words and their fields (R300, R301) -/

theorem fieldRsv1_eq_zero_iff (w : Word) : fieldRsv1 w = 0 ↔ w.toNat / 65536 = 0 := by
  simp [← BitVec.toNat_inj]

theorem fieldRsv0_eq_zero_iff (w : Word) : fieldRsv0 w = 0 ↔ w.toNat / 32 % 8 = 0 := by
  simp [← BitVec.toNat_inj]

theorem fieldShamt_eq_zero_iff (w : Word) : fieldShamt w = 0 ↔ w.toNat / 256 % 256 = 0 := by
  simp [← BitVec.toNat_inj]

/-- A word is laid out as command `i` when its reserved fields are 0 and OP and SHAMT are the command's. -/
structure LaidOutAs (w : Word) (i : Instr) : Prop where
  rsv1 : w.toNat / 65536 = 0
  rsv0 : w.toNat / 32 % 8 = 0
  op : i.opcode.toNat = w.toNat % 32
  shamt : i.shamt.toNat = w.toNat / 256 % 256

/-- The four fields fill the word, so they fix it. -/
theorem LaidOutAs.encode_eq {w : Word} {i : Instr} (h : LaidOutAs w i) : encode i = w := by
  obtain ⟨h1, h0, hop, hn⟩ := h
  apply BitVec.eq_of_toNat_eq
  rw [encode_toNat]
  omega

/-! ### The decoder's three answers (R309) -/

/-- A reserved field is not 0, the opcode is reserved, or a command other than SHL and SHR has an amount. -/
def FailsOpcodeTest (w : Word) : Prop :=
  w.toNat / 65536 ≠ 0 ∨ w.toNat / 32 % 8 ≠ 0 ∨ 0x0F ≤ w.toNat % 32 ∨
    (w.toNat % 32 ≠ 0x09 ∧ w.toNat % 32 ≠ 0x0A ∧ w.toNat / 256 % 256 ≠ 0)

/-- The word is SHL or SHR, its reserved fields are 0, and its amount is above 15. -/
def FailsShamtTest (w : Word) : Prop :=
  w.toNat / 65536 = 0 ∧ w.toNat / 32 % 8 = 0 ∧ (w.toNat % 32 = 0x09 ∨ w.toNat % 32 = 0x0A) ∧
    15 < w.toNat / 256 % 256

theorem not_failsShamtTest_of_failsOpcodeTest {w : Word} (h : FailsOpcodeTest w) : ¬ FailsShamtTest w := by
  unfold FailsOpcodeTest at h
  unfold FailsShamtTest
  omega

/-- A word laid out as a well-formed command passes both tests. -/
theorem LaidOutAs.passes_tests {w : Word} {i : Instr} (h : LaidOutAs w i) (hwf : i.wf = true) :
    ¬ FailsOpcodeTest w ∧ ¬ FailsShamtTest w := by
  obtain ⟨h1, h0, hop, hn⟩ := h
  have hlt := i.opcode_lt
  have hle := i.wf_iff.1 hwf
  unfold FailsOpcodeTest FailsShamtTest
  cases hi : i.isShift with
  | true =>
    have hshift := i.isShift_iff.1 hi
    omega
  | false =>
    have hzero : i.shamt.toNat = 0 := congrArg BitVec.toNat (Instr.shamt_of_not_shift hi)
    omega

/-- The row of the opcode map for the fields of a word whose reserved fields are 0, and whose SHAMT is 0 unless the row
is SHL or SHR. -/
theorem laidOutAs_of_commandOf {w : Word} {i : Instr} (h1 : w.toNat / 65536 = 0) (h0 : w.toNat / 32 % 8 = 0)
    (hrow : commandOf (fieldOp w) (fieldShamt w) = some i) (hn : i.isShift = false → fieldShamt w = 0) :
    LaidOutAs w i := by
  obtain ⟨hop, hshift⟩ := commandOf_opcode hrow
  have hamount : i.shamt = fieldShamt w := by
    cases hi : i.isShift with
    | true => exact hshift hi
    | false => rw [Instr.shamt_of_not_shift hi, hn hi]
  exact ⟨h1, h0, by rw [hop, fieldOp_toNat], by rw [hamount, fieldShamt_toNat]⟩

/-- The amount of SHL and SHR has passed R307's test, and any other command's is 0. -/
theorem LaidOutAs.wf_of_small_amount {w : Word} {i : Instr} (h : LaidOutAs w i)
    (hn : ¬(i.isShift = true ∧ 15 < (fieldShamt w).toNat)) : i.wf = true := by
  rw [Instr.wf_iff]
  cases hi : i.isShift with
  | true =>
    rw [h.shamt, ← fieldShamt_toNat]
    exact not_lt.1 fun hlt => hn ⟨hi, hlt⟩
  | false => simp [Instr.shamt_of_not_shift hi]

/-- What a word can decode to, and why. -/
theorem decode_cases (w : Word) :
    (decode w = .refuse .badOpcode ∧ FailsOpcodeTest w) ∨ (decode w = .refuse .badShamt ∧ FailsShamtTest w) ∨
      ∃ i, decode w = .cmd i ∧ i.wf = true ∧ LaidOutAs w i := by
  unfold decode
  split
  next hrsv =>
    rw [ne_eq, ne_eq, fieldRsv1_eq_zero_iff, fieldRsv0_eq_zero_iff] at hrsv
    exact .inl ⟨rfl, hrsv.imp_right .inl⟩
  next hrsv =>
    rw [not_or, not_not, not_not, fieldRsv1_eq_zero_iff, fieldRsv0_eq_zero_iff] at hrsv
    obtain ⟨h1, h0⟩ := hrsv
    split
    next hrow =>
      have hop := le_of_commandOf_eq_none hrow
      rw [fieldOp_toNat] at hop
      exact .inl ⟨rfl, .inr (.inr (.inl hop))⟩
    next i hrow =>
      have hop := congrArg BitVec.toNat (commandOf_opcode hrow).1
      rw [fieldOp_toNat] at hop
      have hkind := hop ▸ i.isShift_iff
      split
      next hamount =>
        obtain ⟨hi, hn⟩ := hamount
        rw [ne_eq, fieldShamt_eq_zero_iff] at hn
        rw [hi, Bool.false_eq_true, false_iff, not_or] at hkind
        exact .inl ⟨rfl, .inr (.inr (.inr ⟨hkind.1, hkind.2, hn⟩))⟩
      next hamount =>
        have hlaid := laidOutAs_of_commandOf h1 h0 hrow fun hi => not_not.1 fun hn => hamount ⟨hi, hn⟩
        split
        next hlarge =>
          obtain ⟨hi, hn⟩ := hlarge
          rw [fieldShamt_toNat] at hn
          exact .inr (.inl ⟨rfl, h1, h0, hkind.1 hi, hn⟩)
        next hsmall =>
          exact .inr (.inr ⟨i, rfl, hlaid.wf_of_small_amount hsmall, hlaid⟩)

/-! ### The decoder inverts the encoder -/

theorem decode_encode {i : Instr} (h : i.wf = true) : decode (encode i) = .cmd i := by
  obtain ⟨h1, h0, hop, hn⟩ := Laws.ReservedZero.fields i
  have hle := i.wf_iff.1 h
  rw [decode, h1, h0, hop, hn, commandOf_opcode_shamt]
  cases hi : i.isShift with
  | true => simp [hi, hle]
  | false => simp [hi, Instr.shamt_of_not_shift hi]

theorem wf_and_laidOutAs_of_decode {w : Word} {i : Instr} (h : decode w = .cmd i) : i.wf = true ∧ LaidOutAs w i := by
  rcases decode_cases w with ⟨hd, -⟩ | ⟨hd, -⟩ | ⟨j, hd, hj⟩ <;> rw [h] at hd <;> cases hd
  exact hj

/-- Settles O2: a decoded word is laid out as its command, and so is the command's encoding. -/
theorem decodeInvertsEncode : Obligations.DecodeInvertsEncode := by
  refine fun w i => ⟨fun hd => ?_, fun ⟨hwf, he⟩ => ?_⟩
  · obtain ⟨hwf, hlaid⟩ := wf_and_laidOutAs_of_decode hd
    exact ⟨hwf, hlaid.encode_eq⟩
  · rw [← he]
    exact decode_encode hwf

/-! ### The partition of the words -/

theorem decode_eq_badOpcode_iff (w : Word) : decode w = .refuse .badOpcode ↔ FailsOpcodeTest w := by
  rcases decode_cases w with ⟨hd, hop⟩ | ⟨hd, hn⟩ | ⟨i, hd, hwf, hlaid⟩
  · exact iff_of_true hd hop
  · exact iff_of_false (by simp [hd]) fun hop => not_failsShamtTest_of_failsOpcodeTest hop hn
  · exact iff_of_false (by simp [hd]) (hlaid.passes_tests hwf).1

theorem decode_eq_badShamt_iff (w : Word) : decode w = .refuse .badShamt ↔ FailsShamtTest w := by
  rcases decode_cases w with ⟨hd, hop⟩ | ⟨hd, hn⟩ | ⟨i, hd, hwf, hlaid⟩
  · exact iff_of_false (by simp [hd]) (not_failsShamtTest_of_failsOpcodeTest hop)
  · exact iff_of_true hd hn
  · exact iff_of_false (by simp [hd]) (hlaid.passes_tests hwf).2

/-- Settles O3: the decoder refuses exactly the words that fail its two tests. -/
theorem decodingPartitionsTheWords : Obligations.DecodingPartitionsTheWords := by
  refine fun w => ⟨decode_eq_badOpcode_iff w, decode_eq_badShamt_iff w, ?_⟩
  rcases decode_cases w with ⟨hd, -⟩ | ⟨hd, -⟩ | ⟨i, hd, -, hlaid⟩
  · exact .inl hd
  · exact .inr (.inl hd)
  · exact .inr (.inr ⟨i, hd, hlaid.op, hlaid.shamt⟩)

/-- Settles O4: the word fails a test of the decoder, and a refused word is reported in STATUS alone. -/
theorem illegalWordsChangeOnlyStatus : Obligations.IllegalWordsChangeOnlyStatus := fun _ w hidle =>
  ⟨fun hop => Machine.submit_of_refused_word hidle ((decode_eq_badOpcode_iff w).2 hop),
    fun h1 h0 hop hn => Machine.submit_of_refused_word hidle ((decode_eq_badShamt_iff w).2 ⟨h1, h0, hop, hn⟩)⟩

/-- Settles O1, by running the decoder on the nineteen words. -/
theorem specWordsDecodeToTheirCommands : Obligations.SpecWordsDecodeToTheirCommands := by
  unfold Obligations.SpecWordsDecodeToTheirCommands
  decide

end Sys2Proof
end

section
/-! PROOFS. The limb-by-limb computations of the datapath as arithmetic on the values: adder, subtractor, multiplier and
comparator (40_arithmetic.md R401 to R404). -/

namespace Sys2Proof.Machine

open Sys2Proof

/-! ### Limbs as digits of the value (00_scope.md R15) -/

/-- R15: limb i of an operand is limb i of its value; a limb past its length is 0. -/
theorem laneAt_eq_limbOf (xs : List Limb) (i : Nat) : laneAt xs i = limbOf (limbsVal xs) i := by
  induction xs generalizing i with
  | nil => simp [laneAt, limbOf]
  | cons x xs ih =>
    apply BitVec.eq_of_toNat_eq
    cases i with
    | zero =>
      simp only [laneAt, limbOf, limbsVal_cons, List.getD_cons_zero, BitVec.toNat_ofNat, Nat.mul_zero,
        Nat.shiftRight_zero, limbBase]
      omega
    | succ i =>
      have hdiv : (x.toNat + limbBase * limbsVal xs) / limbBase = limbsVal xs := by
        simp only [limbBase]
        omega
      have htail : laneAt (x :: xs) (i + 1) = laneAt xs i := rfl
      rw [htail, ih]
      simp only [limbOf, Nat.shiftRight_eq_div_pow, ← limbBase_pow, limbsVal_cons, pow_succ',
        ← Nat.div_div_eq_div_mul, hdiv]

theorem laneAt_toNat (xs : List Limb) (i : Nat) : (laneAt xs i).toNat = limbsVal xs / limbBase ^ i % limbBase := by
  rw [laneAt_eq_limbOf, limbOf, BitVec.toNat_ofNat, Nat.shiftRight_eq_div_pow, ← limbBase_pow]

/-- Right-aligning an operand in n lanes or more adds leading zero limbs and keeps its value. -/
theorem limbsVal_map_laneAt {xs : List Limb} {n : Nat} (h : xs.length ≤ n) :
    limbsVal ((List.range n).map (laneAt xs)) = limbsVal xs := by
  rw [funext (laneAt_eq_limbOf xs), limbsVal_limbOf, Nat.mod_eq_of_lt]
  exact (limbsVal_lt xs).trans_le (Nat.pow_le_pow_right (by decide) h)

theorem limbsVal_lanePairs_fst (xs ys : List Limb) : limbsVal ((lanePairs xs ys).map Prod.fst) = limbsVal xs := by
  rw [lanePairs, List.map_map]
  exact limbsVal_map_laneAt (le_max_left _ _)

theorem limbsVal_lanePairs_snd (xs ys : List Limb) : limbsVal ((lanePairs xs ys).map Prod.snd) = limbsVal ys := by
  rw [lanePairs, List.map_map]
  exact limbsVal_map_laneAt (le_max_right _ _)

/-- A carry chain keeps t: its low 15 bits in the limb, the rest in the carry to the limbs above. -/
theorem ofNat_toNat_add_carry (t : Nat) : (BitVec.ofNat limbWidth t).toNat + limbBase * (t / limbBase) = t := by
  rw [BitVec.toNat_ofNat]
  exact Nat.mod_add_div t limbBase

/-! ### Adder (R402) -/

/-- The carry into a limb is below 2^15, so the one extra limb holds the last. -/
theorem limbsVal_addLanes {c : Nat} (hc : c < limbBase) (ps : List (Limb × Limb)) :
    limbsVal (addLanes c ps) = limbsVal (ps.map Prod.fst) + limbsVal (ps.map Prod.snd) + c := by
  induction ps generalizing c with
  | nil => simpa [addLanes] using hc
  | cons p ps ih =>
    obtain ⟨x, y⟩ := p
    have hcarry : (x.toNat + y.toNat + c) / limbBase < limbBase := by
      simp only [limbBase] at hc ⊢
      omega
    have ht := ofNat_toNat_add_carry (x.toNat + y.toNat + c)
    simp only [addLanes, limbsVal_cons, List.map_cons, ih hcarry]
    linarith

theorem addMag_eq (xs ys : List Limb) : addMag xs ys = limbsVal xs + limbsVal ys := by
  rw [addMag, limbsVal_addLanes (by decide), limbsVal_lanePairs_fst, limbsVal_lanePairs_snd, Nat.add_zero]

/-- Settles O13: the adder's loop, over lanes that have the values of the operands. -/
theorem adderComputesTheSum : Obligations.AdderComputesTheSum := addMag_eq

/-! ### Subtractor (R403) -/

/-- The borrow is 0 or 1; the lanes left of a limb still hold no less than what is subtracted from them. -/
theorem limbsVal_subLanes {b : Nat} (hb : b ≤ 1) {ps : List (Limb × Limb)}
    (hle : limbsVal (ps.map Prod.snd) + b ≤ limbsVal (ps.map Prod.fst)) :
    limbsVal (subLanes b ps) = limbsVal (ps.map Prod.fst) - (limbsVal (ps.map Prod.snd) + b) := by
  induction ps generalizing b with
  | nil => simp [subLanes]
  | cons p ps ih =>
    obtain ⟨x, y⟩ := p
    simp only [List.map_cons, limbsVal_cons, limbBase] at hle ⊢
    rw [subLanes]
    split
    next hborrow =>
      have ht : x.toNat + 32768 - (y.toNat + b) < 2 ^ 15 := by omega
      simp only [limbsVal_cons, limbBase, ih le_rfl (by omega), BitVec.toNat_ofNat, Nat.mod_eq_of_lt ht]
      omega
    next hnone =>
      have ht : x.toNat - (y.toNat + b) < 2 ^ 15 := by omega
      simp only [limbsVal_cons, limbBase, ih (Nat.zero_le 1) (by omega), BitVec.toNat_ofNat, Nat.mod_eq_of_lt ht]
      omega

theorem subMag_eq {xs ys : List Limb} (h : limbsVal ys ≤ limbsVal xs) :
    subMag xs ys = limbsVal xs - limbsVal ys := by
  have hle : limbsVal ((lanePairs xs ys).map Prod.snd) + 0 ≤ limbsVal ((lanePairs xs ys).map Prod.fst) := by
    rwa [limbsVal_lanePairs_fst, limbsVal_lanePairs_snd]
  rw [subMag, limbsVal_subLanes (Nat.zero_le 1) hle, limbsVal_lanePairs_fst, limbsVal_lanePairs_snd, Nat.add_zero]

/-- Settles O14: the subtractor's loop, over lanes that have the values of the operands. -/
theorem subtractorComputesTheDifference : Obligations.SubtractorComputesTheDifference := fun _ _ => subMag_eq

/-! ### Multiplier (R404) -/

/-- R404: (2^15 - 1)^2 + 2 * (2^15 - 1) = 2^30 - 1. -/
theorem mul_step_le (x y p : Limb) {c : Nat} (hc : c < limbBase) :
    x.toNat * y.toNat + p.toNat + c ≤ 2 ^ 30 - 1 := by
  have hxy : x.toNat * y.toNat ≤ 32767 * 32767 :=
    Nat.mul_le_mul (Nat.le_of_lt_succ x.isLt) (Nat.le_of_lt_succ y.isLt)
  simp only [limbBase] at hc
  omega

theorem mul_carry_lt (x y p : Limb) {c : Nat} (hc : c < limbBase) :
    (x.toNat * y.toNat + p.toNat + c) / limbBase < limbBase := by
  have ht := mul_step_le x y p hc
  simp only [limbBase]
  omega

theorem limbsVal_mulRow (x : Limb) {c : Nat} (hc : c < limbBase) (row : List (Limb × Limb)) :
    limbsVal (mulRow x c row) = x.toNat * limbsVal (row.map Prod.fst) + limbsVal (row.map Prod.snd) + c := by
  induction row generalizing c with
  | nil => simpa [mulRow] using hc
  | cons q row ih =>
    obtain ⟨y, p⟩ := q
    have ht := ofNat_toNat_add_carry (x.toNat * y.toNat + p.toNat + c)
    simp only [mulRow, limbsVal_cons, List.map_cons, ih (mul_carry_lt x y p hc)]
    linarith

/-- The outer loop adds X * val(Y) to the LY accumulator cells. -/
theorem limbsVal_mulRows {ys acc : List Limb} (xs : List Limb) (h : acc.length = ys.length) :
    limbsVal (mulRows ys xs acc) = limbsVal xs * limbsVal ys + limbsVal acc := by
  induction xs generalizing acc with
  | nil => simp [mulRows]
  | cons x xs ih =>
    have hlen : (mulRow x 0 (ys.zip acc)).length = ys.length + 1 := by simp [h]
    obtain ⟨p, acc', hrow⟩ := List.exists_cons_of_length_eq_add_one hlen
    have hacc : acc'.length = ys.length := by simpa [hrow] using hlen
    have hval := limbsVal_mulRow x (c := 0) (by decide) (ys.zip acc)
    rw [hrow, List.map_fst_zip h.ge, List.map_snd_zip h.le, limbsVal_cons] at hval
    rw [mulRows, hrow]
    simp only [limbsVal_cons, ih hacc]
    linarith

theorem mulMag_eq (xs ys : List Limb) : mulMag xs ys = limbsVal xs * limbsVal ys := by
  have hzero : limbsVal (List.replicate ys.length 0) = 0 := limbsVal_eq_zero fun i => by
    simp [laneAt]
  rw [mulMag, limbsVal_mulRows xs List.length_replicate, hzero, Nat.add_zero]

/-- Settles O15: a row keeps x * Y[j] + P[i+j] + c at each limb, and the rows add up to the product. -/
theorem multiplierComputesTheProduct : Obligations.MultiplierComputesTheProduct :=
  ⟨mulMag_eq, fun x y p _ _ hc => ⟨rfl, mul_step_le x y p hc, mul_carry_lt x y p hc⟩,
    fun x _ row hc => limbsVal_mulRow x hc row⟩

/-! ### Comparator (R401) -/

/-- A larger top digit decides, whatever the lower digits. -/
theorem add_mul_lt_add_mul {u v B x y : Nat} (hu : u < B) (h : x < y) : u + B * x < v + B * y := by
  have hxy : B * (x + 1) ≤ B * y := Nat.mul_le_mul_left B h
  rw [Nat.mul_succ] at hxy
  omega

/-- The loop over the n low limbs compares what they hold. -/
theorem cmpLimbs_eq_compare (xs ys : List Limb) (n : Nat) :
    cmpLimbs xs ys n = compare (limbsVal xs % limbBase ^ n) (limbsVal ys % limbBase ^ n) := by
  induction n with
  | zero => simp [cmpLimbs, Nat.mod_one]
  | succ n ih =>
    have hpos : 0 < limbBase ^ n := Nat.pow_pos (by decide)
    have hxs := Nat.mod_lt (limbsVal xs) hpos
    have hys := Nat.mod_lt (limbsVal ys) hpos
    simp only [pow_succ, Nat.mod_mul, ← laneAt_toNat]
    rw [cmpLimbs]
    split
    next heq => rw [ih, heq, ← cmp_eq_compare, ← cmp_eq_compare, cmp_add_right]
    next hne =>
      split
      next hlt => exact (compare_gt_iff_gt.2 (add_mul_lt_add_mul hys hlt)).symm
      next hge =>
        have hlt : (laneAt xs n).toNat < (laneAt ys n).toNat :=
          lt_of_le_of_ne (not_lt.1 hge) fun h => hne (BitVec.eq_of_toNat_eq h)
        exact (compare_lt_iff_lt.2 (add_mul_lt_add_mul hxs hlt)).symm

theorem lt_limbBase_pow_nlen (v : Nat) : v < limbBase ^ nlen v := (nlen_le_iff v _).1 le_rfl

theorem nlen_mono {v w : Nat} (h : v ≤ w) : nlen v ≤ nlen w :=
  (nlen_le_iff v _).2 (h.trans_lt (lt_limbBase_pow_nlen w))

theorem lt_of_nlen_lt {v w : Nat} (h : nlen v < nlen w) : v < w :=
  not_le.1 fun hle => not_le.2 h (nlen_mono hle)

theorem cmpMag_eq_compare (xs ys : List Limb) : cmpMag xs ys = compare (limbsVal xs) (limbsVal ys) := by
  rw [cmpMag]
  split
  next heq =>
    rw [cmpLimbs_eq_compare, Nat.mod_eq_of_lt (lt_limbBase_pow_nlen _), heq,
      Nat.mod_eq_of_lt (lt_limbBase_pow_nlen _)]
  next hne =>
    split
    next hlt => exact (compare_gt_iff_gt.2 (lt_of_nlen_lt hlt)).symm
    next hge => exact (compare_lt_iff_lt.2 (lt_of_nlen_lt (lt_of_le_of_ne (not_lt.1 hge) hne))).symm

/-- Settles O16: fewer limbs is a smaller value, and with as many limbs the loop compares the values. -/
theorem comparatorComparesTheValues : Obligations.ComparatorComparesTheValues := cmpMag_eq_compare

end Sys2Proof.Machine
end

section
/-! PROOFS. What every command statement needs: the one legal word of a command without an amount (30_encoding.md R303 to
R306), the refusal of a long operand (60_exceptions.md R602, R603), and what a command that wrote R leaves (10_state.md
R114, R117). -/

namespace Sys2Proof

/-- A command that reads B reads A too, has no amount and moves nothing (30_encoding.md R303). -/
theorem Instr.binary_of_readsB {i : Instr} (h : i.readsB = true) :
    i.isShift = false ∧ i.wf = true ∧ i.readsA = true ∧ i.movesR = false := by
  cases i <;> simp [Instr.readsB, Instr.isShift, Instr.wf, Instr.readsA, Instr.movesR] at h ⊢

end Sys2Proof

namespace Sys2Proof.Machine

open Sys2Proof

/-! ### The legal word -/

/-- A word with the opcode of a command other than SHL and SHR is its encoding or fails R309's first test. -/
theorem failsOpcodeTest_of_ne_encode {i : Instr} {w : Word} (hi : i.isShift = false)
    (hop : w.toNat % 32 = i.opcode.toNat) (hne : w ≠ encode i) : FailsOpcodeTest w := by
  have hshift : ¬(i.opcode.toNat = 0x09 ∨ i.opcode.toNat = 0x0A) := by simp [← Instr.isShift_iff, hi]
  have hzero : i.shamt.toNat = 0 := congrArg BitVec.toNat (Instr.shamt_of_not_shift hi)
  by_contra hpass
  unfold FailsOpcodeTest at hpass
  have hlaid : LaidOutAs w i := ⟨by omega, by omega, hop.symm, by omega⟩
  exact hne hlaid.encode_eq.symm

/-- R306: a command without an amount has one legal word. -/
theorem onlyLegalWord_encode {i : Instr} (hi : i.isShift = false) : OnlyLegalWord (encode i) := by
  intro s v hidle hop hne
  have hlt := i.opcode_lt
  rw [encode_toNat] at hop
  exact submit_of_refused_word hidle
    ((decode_eq_badOpcode_iff v).2 (failsOpcodeTest_of_ne_encode hi (by omega) hne))

/-! ### The commands that read A and B -/

theorem acceptError_of_long_operand {i : Instr} {s : State} (hwf : i.wf = true) (hA : i.readsA = true)
    (hB : i.readsB = true) (h : s.cfg.lmax < s.a.len.toNat ∨ s.cfg.lmax < s.b.len.toNat) :
    acceptError i s = some .badLength := by
  rcases h with h | h <;> simp [acceptError, hwf, hA, hB, h]

/-- R602 to R604 for a command that reads A and B and has no amount: its one word, its completion when both operands
fit, its refusal when one does not. -/
theorem binaryCommand_spec {i : Instr} {f : State → State} (hf : exec i = command i f) (hB : i.readsB = true)
    {P : State → State → Prop} (hP : ∀ s : State, s.Ready → acceptError i s = none → P s (f s).complete) :
    OnlyLegalWord (encode i) ∧ ∀ s : State, s.Ready →
      (s.a.len.toNat ≤ s.cfg.lmax → s.b.len.toNat ≤ s.cfg.lmax → ∃ t, exec i s = .next t ∧ P s t) ∧
      (s.cfg.lmax < s.a.len.toNat ∨ s.cfg.lmax < s.b.len.toNat →
        exec i s = .next { s with err := true, errcode := .badLength, done := true }) := by
  obtain ⟨hshift, hwf, hA, hmoves⟩ := Instr.binary_of_readsB hB
  refine ⟨onlyLegalWord_encode hshift, fun s hs => ⟨fun ha hb => ?_, fun hlong => ?_⟩⟩
  · have he : acceptError i s = none :=
      (acceptError_eq_none_iff i s).2 ⟨hwf, fun _ => ha, fun _ => hb, by simp [hmoves]⟩
    exact ⟨_, by rw [hf, command_of_accepted f he], hP s hs he⟩
  · exact exec_of_refused (acceptError_of_long_operand hwf hA hB hlong)

/-! ### The result -/

theorem resultLimbs_getD {m n k : Nat} (d : Nat) (hk : k < nlen m) (hm : nlen m ≤ n) :
    (resultLimbs m n d).getD k 0 = limbOf m k := by
  have hkn : k < n := hk.trans_le hm
  simp [resultLimbs, hk, hkn]

/-- The Z flag is LEN_R = 0, which after Finish is a zero magnitude. -/
theorem finish_zFlag (s : State) (m : Nat) (sg : Bool) (h : nlen m ≤ s.cfg.rmax) (hr : s.cfg.rmax < 65536) :
    (s.finish m sg).zFlag = decide (m = 0) := by
  rw [State.zFlag, decide_eq_decide, ← BitVec.toNat_inj, finish_len s m sg h hr]
  exact nlen_eq_zero_iff m

/-- R114, R117: Finish(m, sg), CMP and completion leave the magnitude m with sign sg. -/
theorem complete_finish_hasResult {s : State} {m : Nat} (sg : Bool) (c : Cmp) (hs : s.Ready)
    (h : nlen m ≤ s.cfg.rmax) : ((s.finish m sg).setCmp c).complete.HasResult m sg c := by
  have hr := Config.rmax_lt hs.1
  exact ⟨⟨rfl, rfl, rfl, rfl⟩, finish_value s m sg h hr, finish_len s m sg h hr,
    fun _ hk => resultLimbs_getD _ hk h, rfl, rfl, finish_zFlag s m sg h hr, rfl⟩

/-! ### Sign and magnitude (00_scope.md R17) -/

/-- The integer with magnitude m, negative when sg is set. -/
def signedOf (m : Nat) (sg : Bool) : Int := if sg then -(m : Int) else m

@[simp] theorem signedOf_false (m : Nat) : signedOf m false = m := rfl
@[simp] theorem signedOf_true (m : Nat) : signedOf m true = -(m : Int) := rfl

@[simp] theorem signedOf_natAbs (m : Nat) (sg : Bool) : (signedOf m sg).natAbs = m := by
  cases sg <;> simp

theorem signedOf_not (m : Nat) (sg : Bool) : signedOf m (!sg) = -signedOf m sg := by
  cases sg <;> simp

theorem signedOf_add (m n : Nat) (sg : Bool) : signedOf (m + n) sg = signedOf m sg + signedOf n sg := by
  cases sg with
  | false => exact Int.natCast_add m n
  | true => rw [signedOf_true, Int.natCast_add, Int.neg_add, signedOf_true, signedOf_true]

theorem signedOf_sub {m n : Nat} (h : n ≤ m) (sg : Bool) : signedOf (m - n) sg = signedOf m sg - signedOf n sg := by
  rw [eq_sub_iff_add_eq, ← signedOf_add, Nat.sub_add_cancel h]

/-- Like signs give a positive product, unlike signs a negative one. -/
theorem signedOf_mul (m n : Nat) (sa sb : Bool) : signedOf (m * n) (sa ^^ sb) = signedOf m sa * signedOf n sb := by
  cases sa <;> cases sb <;> simp

/-- There is no negative zero: the sign of magnitude 0 does not count. -/
@[simp] theorem signedOf_and_ne_zero (m : Nat) (sg : Bool) : signedOf m (sg && decide (m ≠ 0)) = signedOf m sg := by
  by_cases h : m = 0 <;> simp [h, signedOf]

theorem decide_signedOf_neg (m : Nat) (sg : Bool) : decide (signedOf m sg < 0) = (sg && decide (m ≠ 0)) := by
  cases sg with
  | false => simp [Int.not_lt.2 (Int.natCast_nonneg m)]
  | true => simp [Nat.pos_iff_ne_zero]

/-- R113: the effective sign gives the same integer as the stored one. -/
theorem BigReg.signed_eq (x : BigReg) : x.signed = signedOf x.value x.effSign :=
  (signedOf_and_ne_zero x.value x.sign).symm

@[simp] theorem BigReg.signed_natAbs (x : BigReg) : x.signed.natAbs = x.value := signedOf_natAbs x.value x.sign

/-- What a command writes whose result is the integer v: Finish with its magnitude and sign, and CMP. -/
def State.finishInt (s : State) (v : Int) (c : Cmp) : State := (s.finish v.natAbs (decide (v < 0))).setCmp c

/-- Finish drops the sign of a zero, so the integer given as magnitude and sign is all that counts. -/
theorem finish_setCmp_eq_finishInt (s : State) (m : Nat) (sg : Bool) (c : Cmp) :
    (s.finish m sg).setCmp c = s.finishInt (signedOf m sg) c := by
  rw [State.finishInt, signedOf_natAbs, decide_signedOf_neg, State.finish, State.finish, Bool.and_assoc,
    Bool.and_self]

theorem signedOf_natAbs_decide (v : Int) : signedOf v.natAbs (decide (v < 0)) = v := by
  by_cases h : v < 0
  · rw [decide_eq_true h, signedOf_true]
    omega
  · rw [decide_eq_false h, signedOf_false]
    omega

/-- R17, R114: R then holds v. -/
theorem complete_finishInt_signed {s : State} {v : Int} (c : Cmp) (hs : s.Ready) (h : nlen v.natAbs ≤ s.cfg.rmax) :
    (s.finishInt v c).complete.r.signed = v := by
  have hval := finish_value s v.natAbs (decide (v < 0)) h (Config.rmax_lt hs.1)
  calc (s.finishInt v c).complete.r.signed
    _ = signedOf (s.finish v.natAbs (decide (v < 0))).r.value (decide (v < 0) && decide (v.natAbs ≠ 0)) := rfl
    _ = v := by rw [hval, signedOf_and_ne_zero, signedOf_natAbs_decide]

theorem complete_finishInt_hasResult {s : State} {v : Int} (c : Cmp) (hs : s.Ready) (h : nlen v.natAbs ≤ s.cfg.rmax) :
    (s.finishInt v c).complete.HasResult v.natAbs (decide (v < 0)) c :=
  complete_finish_hasResult _ c hs h

end Sys2Proof.Machine
end

section
/-! PROOFS. The commands of the arithmetic family (40_arithmetic.md R410 to R414). -/

namespace Sys2Proof.Machine

open Sys2Proof

/-! ### Difference and signed sum (R411, R412) -/

/-- R411: the smaller magnitude is taken from the larger, whichever it is. -/
theorem diffMag_compare (xs ys : List Limb) :
    diffMag (compare (limbsVal xs) (limbsVal ys)) xs ys = ((limbsVal xs : Int) - limbsVal ys).natAbs := by
  cases hc : compare (limbsVal xs) (limbsVal ys) with
  | lt =>
    have hlt := compare_lt_iff_lt.1 hc
    rw [diffMag, subMag_eq hlt.le]
    omega
  | eq =>
    have heq := compare_eq_iff_eq.1 hc
    rw [diffMag]
    omega
  | gt =>
    have hgt := compare_gt_iff_gt.1 hc
    rw [diffMag, subMag_eq hgt.le]
    omega

/-- R412: the sign dispatch adds the integers. -/
theorem signedOf_signedSum (xs ys : List Limb) (sa sb : Bool) :
    signedOf (signedSum xs ys sa sb).1 (signedSum xs ys sa sb).2 =
      signedOf (limbsVal xs) sa + signedOf (limbsVal ys) sb := by
  rw [signedSum]
  split
  next hsame => rw [hsame, addMag_eq, signedOf_add]
  next hdiff =>
    obtain rfl : sb = !sa := Bool.eq_not.2 (Ne.symm hdiff)
    rw [cmpMag_eq_compare]
    cases hc : compare (limbsVal xs) (limbsVal ys) with
    | lt =>
      have hle := (compare_lt_iff_lt.1 hc).le
      simp only [subMag_eq hle, signedOf_sub hle, signedOf_not]
      omega
    | eq => simp [compare_eq_iff_eq.1 hc, signedOf_not]
    | gt =>
      have hle := (compare_gt_iff_gt.1 hc).le
      simp only [subMag_eq hle, signedOf_sub hle, signedOf_not]
      omega

/-- R413: negate(B) has the sign of -b, which stays 0 for a zero B. -/
theorem signedOf_negated_sign (x : BigReg) :
    signedOf (limbsVal x.operand) (decide (x.value ≠ 0) && !x.effSign) = -x.signed := by
  rw [Bool.and_comm, x.signed_eq, ← signedOf_not]
  exact signedOf_and_ne_zero x.value _

/-! ### The commands on values: what each writes, in terms of A's and B's -/

theorem exec_addm_eq : exec .addm = command .addm fun s =>
    (s.finish (s.a.value + s.b.value) false).setCmp (.ofOrdering (compare s.a.value s.b.value)) := by
  funext s
  simp only [exec, execAddm, cmpMag_eq_compare, addMag_eq]
  rfl

theorem exec_subm_eq : exec .subm = command .subm fun s =>
    (s.finish ((s.a.value : Int) - s.b.value).natAbs false).setCmp (.ofOrdering (compare s.a.value s.b.value)) := by
  funext s
  simp only [exec, execSubm, cmpMag_eq_compare, diffMag_compare]
  rfl

theorem exec_add_eq : exec .add = command .add fun s =>
    s.finishInt (s.a.signed + s.b.signed) (.ofOrdering (compare s.a.value s.b.value)) := by
  funext s
  simp only [exec, execAdd, finish_setCmp_eq_finishInt, signedOf_signedSum, cmpMag_eq_compare, BigReg.signed_eq]
  rfl

theorem exec_sub_eq : exec .sub = command .sub fun s =>
    s.finishInt (s.a.signed - s.b.signed) (.ofOrdering (compare s.a.value s.b.value)) := by
  funext s
  simp only [exec, execSub, finish_setCmp_eq_finishInt, signedOf_signedSum, cmpMag_eq_compare, signedOf_negated_sign,
    BigReg.signed_eq]
  rfl

theorem exec_mul_eq : exec .mul = command .mul fun s => s.finishInt (s.a.signed * s.b.signed) .none := by
  funext s
  simp only [exec, execMul, finish_setCmp_eq_finishInt, mulMag_eq, signedOf_mul, BigReg.signed_eq]
  rfl

/-! ### Results fit R (R405) -/

section Fit

variable {i : Instr} {s : State} (hB : i.readsB = true) (hs : s.Ready) (he : acceptError i s = none)
include hB hs he

theorem accepted_operands_fit :
    max s.a.operand.length s.b.operand.length + 1 ≤ s.cfg.rmax ∧
      s.a.operand.length + s.b.operand.length ≤ s.cfg.rmax := by
  obtain ⟨-, -, hA, -⟩ := Instr.binary_of_readsB hB
  obtain ⟨ha, hb⟩ := accepted_lengths he hs
  exact operand_lengths_le_rmax hs.1 (ha hA) (hb hB)

theorem nlen_le_rmax_of_le_sum {m : Nat} (hm : m ≤ s.a.value + s.b.value) : nlen m ≤ s.cfg.rmax := by
  rw [BigReg.value, BigReg.value, ← addMag_eq] at hm
  exact ((nlen_mono hm).trans (nlen_addMag_le _ _)).trans (accepted_operands_fit hB hs he).1

theorem nlen_product_le_rmax : nlen (s.a.value * s.b.value) ≤ s.cfg.rmax := by
  rw [BigReg.value, BigReg.value, ← mulMag_eq]
  exact (nlen_mulMag_le _ _).trans (accepted_operands_fit hB hs he).2

end Fit

/-! ### The statements -/

/-- Settles O21: ADDM writes the sum of the magnitudes with sign 0. -/
theorem addmAddsTheMagnitudes : Obligations.AddmAddsTheMagnitudes :=
  ⟨rfl, binaryCommand_spec exec_addm_eq rfl fun _ hs he =>
    complete_finish_hasResult false _ hs (nlen_le_rmax_of_le_sum rfl hs he le_rfl)⟩

/-- Settles O22: SUBM writes the difference of the magnitudes with sign 0. -/
theorem submSubtractsTheSmallerMagnitude : Obligations.SubmSubtractsTheSmallerMagnitude :=
  ⟨rfl, binaryCommand_spec exec_subm_eq rfl fun _ hs he =>
    complete_finish_hasResult false _ hs (nlen_le_rmax_of_le_sum rfl hs he (by omega))⟩

/-- Settles O23: ADD writes the integer a + b. -/
theorem addAddsTheSignedValues : Obligations.AddAddsTheSignedValues := by
  refine ⟨rfl, binaryCommand_spec exec_add_eq rfl fun s hs he => ?_⟩
  have hfit : nlen (s.a.signed + s.b.signed).natAbs ≤ s.cfg.rmax :=
    nlen_le_rmax_of_le_sum rfl hs he (by simpa using Int.natAbs_add_le s.a.signed s.b.signed)
  exact ⟨complete_finishInt_signed _ hs hfit, complete_finishInt_hasResult _ hs hfit⟩

/-- Settles O24: SUB writes the integer a - b, and no command that writes R writes B. -/
theorem subSubtractsTheSignedValues : Obligations.SubSubtractsTheSignedValues := by
  refine ⟨rfl, binaryCommand_spec exec_sub_eq rfl fun s hs he => ?_⟩
  have hfit : nlen (s.a.signed - s.b.signed).natAbs ≤ s.cfg.rmax :=
    nlen_le_rmax_of_le_sum rfl hs he (by simpa using Int.natAbs_sub_le s.a.signed s.b.signed)
  exact ⟨complete_finishInt_signed _ hs hfit, rfl, complete_finishInt_hasResult _ hs hfit⟩

/-- Settles O25: MUL writes the integer a * b, whose magnitude is the product of the magnitudes. -/
theorem mulMultipliesTheSignedValues : Obligations.MulMultipliesTheSignedValues := by
  refine ⟨rfl, binaryCommand_spec exec_mul_eq rfl fun s hs he => ?_⟩
  have hmag : (s.a.signed * s.b.signed).natAbs = s.a.value * s.b.value := by simp [Int.natAbs_mul]
  have hfit := nlen_product_le_rmax rfl hs he
  rw [← hmag] at hfit ⊢
  exact ⟨complete_finishInt_signed _ hs hfit, complete_finishInt_hasResult _ hs hfit⟩

end Sys2Proof.Machine
end

section
/-! PROOFS. The bitwise lanes (41_bitwise.md R450, R453) and the commands AND, OR and XOR (R460 to R462). -/

namespace Sys2Proof.Machine

open Sys2Proof

/-! ### Lanes as bits of the value -/

/-- Bit k of a value is bit k mod 15 of its limb k / 15. -/
theorem testBit_limbsVal (xs : List Limb) (k : Nat) :
    (limbsVal xs).testBit k = (laneAt xs (k / limbWidth)).getLsbD (k % limbWidth) := by
  have hk : k % limbWidth < limbWidth := Nat.mod_lt k (by decide)
  rw [laneAt_eq_limbOf, limbOf, BitVec.getLsbD_ofNat, Nat.testBit_shiftRight, Nat.div_add_mod, decide_eq_true hk,
    Bool.true_and]

/-- R450: an operation that combines limbs bit by bit, with no link between lanes, combines the values bit by bit. That
the bits past both operands agree needs that `f` keeps 0. -/
theorem limbsVal_mapLanes {f : Limb → Limb → Limb} {g : Nat → Nat → Nat} {b : Bool → Bool → Bool} (h0 : f 0 0 = 0)
    (hf : ∀ x y j, (f x y).getLsbD j = b (x.getLsbD j) (y.getLsbD j))
    (hg : ∀ v w k, (g v w).testBit k = b (v.testBit k) (w.testBit k)) (xs ys : List Limb) :
    limbsVal (mapLanes f xs ys) = g (limbsVal xs) (limbsVal ys) :=
  Nat.eq_of_testBit_eq fun k => by
    rw [hg, testBit_limbsVal, testBit_limbsVal, testBit_limbsVal, laneAt_mapLanes h0, hf]

theorem limbsVal_andLanes (xs ys : List Limb) :
    limbsVal (mapLanes (· &&& ·) xs ys) = limbsVal xs &&& limbsVal ys :=
  limbsVal_mapLanes (g := (· &&& ·)) rfl (fun _ _ _ => BitVec.getLsbD_and) Nat.testBit_and xs ys

theorem limbsVal_orLanes (xs ys : List Limb) :
    limbsVal (mapLanes (· ||| ·) xs ys) = limbsVal xs ||| limbsVal ys :=
  limbsVal_mapLanes (g := (· ||| ·)) rfl (fun _ _ _ => BitVec.getLsbD_or) Nat.testBit_or xs ys

theorem limbsVal_xorLanes (xs ys : List Limb) :
    limbsVal (mapLanes (· ^^^ ·) xs ys) = limbsVal xs ^^^ limbsVal ys :=
  limbsVal_mapLanes (g := (· ^^^ ·)) rfl (fun _ _ _ => BitVec.getLsbD_xor) Nat.testBit_xor xs ys

/-- Settles O17: the limbs are the bits of the value, in groups of 15. -/
theorem bitwiseLanesCombineTheValues : Obligations.BitwiseLanesCombineTheValues := fun xs ys =>
  ⟨limbsVal_andLanes xs ys, limbsVal_orLanes xs ys, limbsVal_xorLanes xs ys⟩

/-! ### The commands -/

/-- R113: a register holds a negative integer exactly when its effective sign is set. -/
theorem BigReg.decide_signed_neg (x : BigReg) : decide (x.signed < 0) = x.effSign :=
  decide_signedOf_neg x.value x.sign

/-- What R460 to R462 share: the combined lanes fit R, and R gets their value m with the sign of a nonzero A (R452). -/
theorem complete_finishLanes_hasResult {i : Instr} {s : State} {f : Limb → Limb → Limb} {m : Nat}
    (hB : i.readsB = true) (hs : s.Ready) (he : acceptError i s = none)
    (hm : limbsVal (mapLanes f s.a.operand s.b.operand) = m) :
    (s.finishLanes f).complete.HasResult m (decide (s.a.signed < 0)) .none := by
  have hroom := (accepted_operands_fit hB hs he).1
  have hfit : nlen m ≤ s.cfg.rmax :=
    hm ▸ (nlen_mapLanes_le s.a.operand s.b.operand f).trans (Nat.le_of_succ_le hroom)
  rw [State.finishLanes, hm, BigReg.decide_signed_neg]
  exact complete_finish_hasResult _ _ hs hfit

/-- Settles O26: the value of the combined lanes is the AND of the magnitudes. -/
theorem andCombinesTheMagnitudes : Obligations.AndCombinesTheMagnitudes :=
  ⟨rfl, binaryCommand_spec (i := .and) (f := (·.finishLanes (· &&& ·))) rfl rfl fun _ hs he =>
    complete_finishLanes_hasResult rfl hs he (limbsVal_andLanes _ _)⟩

/-- Settles O27: the value of the combined lanes is the OR of the magnitudes. -/
theorem orCombinesTheMagnitudes : Obligations.OrCombinesTheMagnitudes :=
  ⟨rfl, binaryCommand_spec (i := .or) (f := (·.finishLanes (· ||| ·))) rfl rfl fun _ hs he =>
    complete_finishLanes_hasResult rfl hs he (limbsVal_orLanes _ _)⟩

/-- Settles O28: the value of the combined lanes is the XOR of the magnitudes. -/
theorem xorCombinesTheMagnitudes : Obligations.XorCombinesTheMagnitudes :=
  ⟨rfl, binaryCommand_spec (i := .xor) (f := (·.finishLanes (· ^^^ ·))) rfl rfl fun _ hs he =>
    complete_finishLanes_hasResult rfl hs he (limbsVal_xorLanes _ _)⟩

end Sys2Proof.Machine
end

section
/-! PROOFS. The shifter lanes (42_shift.md R501, R502) as arithmetic on the value: lane i is limb i of the product or of
the quotient by 2^n. -/

namespace Sys2Proof.Machine

open Sys2Proof

/-! ### Lanes as limbs of the shifted value -/

/-- Bit j of limb i is bit 15*i + j of the value; a limb has no bit 15. -/
theorem testBit_laneAt (xs : List Limb) (i j : Nat) :
    (laneAt xs i).toNat.testBit j = (decide (j < limbWidth) && (limbsVal xs).testBit (limbWidth * i + j)) := by
  rw [laneAt_eq_limbOf, limbOf, BitVec.toNat_ofNat, Nat.testBit_mod_two_pow, Nat.testBit_shiftRight]

/-- R501: the bits of lane i at n and above come from limb i, those below n from limb i - 1; lane 0 has 0 below. -/
theorem shlLane_eq_limbOf {n : Nat} (hn : n ≤ 15) (xs : List Limb) (i : Nat) :
    shlLane n xs i = limbOf (limbsVal xs * 2 ^ n) i := by
  refine BitVec.eq_of_getLsbD_eq fun j _ => ?_
  simp only [shlLane, limbOf, BitVec.getLsbD_ofNat, ← Nat.shiftLeft_eq, Nat.testBit_or, Nat.testBit_shiftLeft,
    Nat.testBit_shiftRight]
  by_cases hjn : n ≤ j
  · have hbit : 15 * i + (j - n) = 15 * i + j - n := by omega
    have habove : ¬ 15 - n + j < 15 := by omega
    have hbelow : n ≤ 15 * i + j := by omega
    have hjlt : j - n < 15 := by omega
    split <;> simp [testBit_laneAt, hjn, hbit, habove, hbelow, hjlt]
  · cases i with
    | zero => simp [hjn]
    | succ i =>
      have hbit : 15 * i + (15 - n + j) = 15 * (i + 1) + j - n := by omega
      have hlow : 15 - n + j < 15 := by omega
      have hbelow : n ≤ 15 * (i + 1) + j := by omega
      simp [testBit_laneAt, hjn, hbit, hlow, hbelow]

/-- R502: the bits of lane i below 15 - n come from limb i, the others from limb i + 1. -/
theorem shrLane_eq_limbOf {n : Nat} (hn : n ≤ 15) (xs : List Limb) (i : Nat) :
    shrLane n xs i = limbOf (limbsVal xs / 2 ^ n) i := by
  refine BitVec.eq_of_getLsbD_eq fun j _ => ?_
  simp only [shrLane, limbOf, BitVec.getLsbD_ofNat, ← Nat.shiftRight_eq_div_pow, Nat.testBit_or, Nat.testBit_shiftLeft,
    Nat.testBit_shiftRight, testBit_laneAt]
  by_cases hjn : n + j < 15
  · have hbit : 15 * i + (n + j) = n + (15 * i + j) := by omega
    have habove : ¬ 15 - n ≤ j := by omega
    simp [hjn, hbit, habove]
  · have hbit : 15 * (i + 1) + (j - (15 - n)) = n + (15 * i + j) := by omega
    have habove : 15 - n ≤ j := by omega
    have hjlt : j - (15 - n) < 15 := by omega
    simp [hjn, hbit, habove, hjlt]

/-! ### The values -/

theorem limbsVal_shlLimbs {n : Nat} (hn : n ≤ 15) (xs : List Limb) :
    limbsVal (shlLimbs n xs) = limbsVal xs * 2 ^ n := by
  have hpow : 2 ^ n ≤ limbBase := Nat.pow_le_pow_right (n := 2) (by decide) hn
  have hfit : limbsVal xs * 2 ^ n < limbBase ^ (xs.length + 1) :=
    Nat.mul_lt_mul_of_lt_of_le (limbsVal_lt xs) hpow (by decide)
  rw [shlLimbs, funext (shlLane_eq_limbOf hn xs), limbsVal_limbOf, Nat.mod_eq_of_lt hfit]

theorem limbsVal_shrLimbs {n : Nat} (hn : n ≤ 15) (xs : List Limb) :
    limbsVal (shrLimbs n xs) = limbsVal xs / 2 ^ n := by
  have hfit : limbsVal xs / 2 ^ n < limbBase ^ xs.length := (Nat.div_le_self _ _).trans_lt (limbsVal_lt xs)
  rw [shrLimbs, funext (shrLane_eq_limbOf hn xs), limbsVal_limbOf, Nat.mod_eq_of_lt hfit]

/-- R502: the n low bits of limb 0 are those of the value. -/
theorem shrOut_toNat {n : Nat} (hn : n ≤ 15) (xs : List Limb) : (shrOut n xs).toNat = limbsVal xs % 2 ^ n := by
  have hmask : (BitVec.ofNat limbWidth (1 <<< n - 1)).toNat = 2 ^ n - 1 := by
    rw [BitVec.toNat_ofNat, Nat.one_shiftLeft]
    exact Nat.mod_eq_of_lt ((Nat.sub_lt (Nat.two_pow_pos n) Nat.one_pos).trans_le
      (Nat.pow_le_pow_right (by decide) hn))
  rw [shrOut, BitVec.toNat_and, hmask, Nat.and_two_pow_sub_one_eq_mod, laneAt_toNat, pow_zero, Nat.div_one]
  exact Nat.mod_mod_of_dvd _ (Nat.pow_dvd_pow 2 hn)

/-- Settles O18: the lanes are the limbs of val * 2^n, which fits L + 1 limbs. -/
theorem leftShiftLanesMultiply : Obligations.LeftShiftLanesMultiply := fun _ xs hn => limbsVal_shlLimbs hn xs

/-- Settles O19: the lanes are the limbs of val / 2^n, and OUT the bits below them. -/
theorem rightShiftLanesDivide : Obligations.RightShiftLanesDivide := fun _ xs hn =>
  ⟨limbsVal_shrLimbs hn xs, shrOut_toNat hn xs⟩

end Sys2Proof.Machine
end

section
/-! PROOFS. The commands SHL and SHR (42_shift.md R510, R511), and that a left shift, moved back into A, is undone by the
right shift (95_test_vectors.md E12). -/

namespace Sys2Proof

/-- R300: the amount and the opcode, each at its place in the command word. -/
theorem encode_eq_fields (i : Instr) : encode i = i.shamt.setWidth 32 <<< 8 ||| i.opcode.setWidth 32 := by
  have hn := i.shamt.isLt
  have hop : i.opcode.toNat < 2 ^ 8 := i.opcode.isLt.trans (by decide)
  have hword : i.shamt.toNat <<< 8 % 2 ^ 32 = i.shamt.toNat <<< 8 := Nat.mod_eq_of_lt (by omega)
  apply BitVec.eq_of_toNat_eq
  rw [encode_toNat, BitVec.toNat_or, BitVec.toNat_shiftLeft, BitVec.toNat_setWidth_of_le (by decide),
    BitVec.toNat_setWidth_of_le (by decide), hword, ← Nat.shiftLeft_add_eq_or_of_lt hop, Nat.shiftLeft_eq]

/-- SHL and SHR read A alone, and move nothing (30_encoding.md R303). -/
theorem Instr.reads_of_isShift {i : Instr} (h : i.isShift = true) :
    i.readsA = true ∧ i.readsB = false ∧ i.movesR = false := by
  cases i <;> simp [Instr.isShift, Instr.readsA, Instr.readsB, Instr.movesR] at h ⊢

end Sys2Proof

namespace Sys2Proof.Machine

open Sys2Proof

/-! ### What the two commands share -/

/-- R305: a reserved field is tested before the amount. -/
theorem busWrite_cmd_of_reserved_field {s : State} {v : Word} (hidle : s.inflight = none)
    (h : v.toNat / 32 % 8 ≠ 0 ∨ v.toNat / 65536 ≠ 0) :
    s.busWrite 0x0000C v = { s with err := true, errcode := .badOpcode, done := true } :=
  (illegalWordsChangeOnlyStatus s v hidle).1 (h.symm.imp_right .inl)

/-- R500, R602 to R604: a shift by at most 15 of an operand that fits completes; a larger amount is refused first, a long
operand after it. -/
theorem shiftCommand_spec {i : Instr} {f : State → State} {s : State} {P : State → Prop} (hi : i.isShift = true)
    (hf : exec i = command i f) (hP : acceptError i s = none → i.shamt.toNat ≤ 15 → P (f s).complete) :
    (i.shamt.toNat ≤ 15 → s.a.len.toNat ≤ s.cfg.lmax → ∃ t, exec i s = .next t ∧ P t) ∧
    (15 < i.shamt.toNat → exec i s = .next { s with err := true, errcode := .badShamt, done := true }) ∧
    (i.shamt.toNat ≤ 15 → s.cfg.lmax < s.a.len.toNat →
      exec i s = .next { s with err := true, errcode := .badLength, done := true }) := by
  obtain ⟨hA, hB, hmoves⟩ := Instr.reads_of_isShift hi
  refine ⟨fun hn ha => ?_, fun hn => ?_, fun hn ha => ?_⟩
  · have he : acceptError i s = none :=
      (acceptError_eq_none_iff i s).2 ⟨i.wf_iff.2 hn, fun _ => ha, by simp [hB], by simp [hmoves]⟩
    exact ⟨_, by rw [hf, command_of_accepted f he], hP he hn⟩
  · have hwf : i.wf = false := Bool.eq_false_iff.2 fun h => absurd (i.wf_iff.1 h) (by omega)
    exact exec_of_refused (by simp [acceptError, hwf])
  · exact exec_of_refused (by simp [acceptError, i.wf_iff.2 hn, hA, ha])

/-- R504: L + 1 limbs fit R. -/
theorem nlen_le_rmax_of_shift {i : Instr} {s : State} (hi : i.isShift = true) (hs : s.Ready)
    (he : acceptError i s = none) {m : Nat} (hm : nlen m ≤ s.a.operand.length + 1) : nlen m ≤ s.cfg.rmax := by
  have hlen := (accepted_lengths he hs).1 (Instr.reads_of_isShift hi).1
  have hroom := (operand_lengths_le_rmax hs.1 hlen hlen).1
  omega

/-! ### The commands -/

/-- Settles O29: the value of the left shifter's lanes is val_A * 2^n. -/
theorem shlMultipliesByAPowerOfTwo : Obligations.ShlMultipliesByAPowerOfTwo := by
  refine ⟨fun n => encode_eq_fields (.shl n), fun s v hidle _ => busWrite_cmd_of_reserved_field hidle,
    fun s n hs => shiftCommand_spec (i := .shl n) rfl rfl fun he hn => ?_⟩
  have hval : limbsVal (shlLimbs n.toNat s.a.operand) = s.a.value * 2 ^ n.toNat := limbsVal_shlLimbs hn _
  have hfit := nlen_le_rmax_of_shift rfl hs he (nlen_shlLimbs_le s.a.operand n.toNat)
  rw [BigReg.decide_signed_neg, ← hval]
  exact ⟨rfl, complete_finish_hasResult _ _ hs hfit⟩

/-- R511 writes R, SHOUT and CMP, in any order. -/
theorem exec_shr_eq (n : BitVec 8) : exec (.shr n) = command (.shr n) fun s =>
    ((s.setShout (shrOut n.toNat s.a.operand)).finish (limbsVal (shrLimbs n.toNat s.a.operand)) s.a.effSign).setCmp
      .none := rfl

/-- Settles O30: the value of the right shifter's lanes is val_A / 2^n, and OUT the remainder. -/
theorem shrDividesByAPowerOfTwo : Obligations.ShrDividesByAPowerOfTwo := by
  refine ⟨fun n => encode_eq_fields (.shr n), fun s v hidle _ => busWrite_cmd_of_reserved_field hidle,
    fun s n hs => shiftCommand_spec rfl (exec_shr_eq n) fun he hn => ?_⟩
  have hval : limbsVal (shrLimbs n.toNat s.a.operand) = s.a.value / 2 ^ n.toNat := limbsVal_shrLimbs hn _
  have hfit := nlen_le_rmax_of_shift rfl hs he ((nlen_shrLimbs_le s.a.operand n.toNat).trans (Nat.le_succ _))
  rw [BigReg.decide_signed_neg, ← hval]
  exact ⟨shrOut_toNat hn _, complete_finish_hasResult (s := s.setShout _) _ _ hs hfit⟩

/-! ### The shifted value as an integer (R503) -/

theorem State.HasResult.signed_eq {t : State} {m : Nat} {sg : Bool} {c : Cmp} (h : t.HasResult m sg c) :
    t.r.signed = signedOf m sg := by
  obtain ⟨-, hval, -, -, hsign, -⟩ := h
  rw [← signedOf_and_ne_zero, ← hsign, ← hval]
  rfl

/-- A left shift of the magnitude multiplies the integer. -/
theorem signedOf_value_mul (x : BigReg) (n : Nat) :
    signedOf (x.value * 2 ^ n) (decide (x.signed < 0)) = x.signed * 2 ^ n := by
  rw [BigReg.decide_signed_neg, x.signed_eq]
  cases x.effSign <;> simp

/-- R503: a right shift of the magnitude rounds the integer towards zero. -/
theorem signedOf_value_div (x : BigReg) (n : Nat) :
    signedOf (x.value / 2 ^ n) (decide (x.signed < 0)) = x.signed.tdiv (2 ^ n) := by
  rw [BigReg.decide_signed_neg, x.signed_eq]
  cases x.effSign <;> simp [Int.neg_tdiv]

/-! ### Moving a result into A (43_transfer.md R556) -/

theorem exec_cfg {i : Instr} {s t : State} (h : exec i s = .next t) : t.cfg = s.cfg := by
  rcases exec_cases i s with ⟨code, -, he⟩ | ⟨-, u, hw, he⟩
  · obtain rfl : s.refuse code = t := by simpa [he] using h
    rfl
  · obtain rfl : u.complete = t := by simpa [he] using h
    exact (writes_cfg hw : u.cfg = s.cfg)

theorem exec_keeps_ready {i : Instr} {s t : State} (h : exec i s = .next t) (hs : s.Ready) : t.Ready :=
  ⟨exec_cfg h ▸ hs.1, exec_keeps_memory h hs.2⟩

theorem BigReg.SameOperand.signed {x y : BigReg} (h : x.SameOperand y) : x.signed = y.signed := by
  rw [BigReg.signed_eq, BigReg.signed_eq, h.value, h.effSign]

/-- R556: after MOVRA every command reads in A what R held. -/
theorem exec_movra_sameOperand {s : State} (hs : s.Ready) (h : s.r.len.toNat ≤ s.cfg.lmax) :
    ∃ t, exec .movra s = .next t ∧ t.a.SameOperand s.r := by
  have he : acceptError .movra s = none := (acceptError_eq_none_iff _ s).2 ⟨rfl, nofun, nofun, fun _ => h⟩
  obtain ⟨-, -, -, hR⟩ := hs
  have hlen : s.r.len.toNat ≤ s.cfg.rmax := by
    unfold Config.rmax
    omega
  exact ⟨_, exec_movra_of_accepted he, moveFrom_operand s.a (operand_length hR hlen), rfl, rfl⟩

/-! ### There and back -/

/-- Settles O41: a * 2^n is in A after the move, and the right shift divides it by 2^n with nothing left over. -/
theorem shiftLeftThenRightIsTheIdentity : Obligations.ShiftLeftThenRightIsTheIdentity := by
  intro s n hs ha hn hfit
  obtain ⟨t, hst, -, hshl⟩ := (shlMultipliesByAPowerOfTwo.2.2 s n hs).1 hn ha
  have hsigned := hshl.signed_eq
  obtain ⟨-, hval, hlen, -⟩ := hshl
  have ht := exec_keeps_ready hst hs
  have hroom : t.r.len.toNat ≤ t.cfg.lmax := by rwa [hlen, exec_cfg hst]
  obtain ⟨u, htu, hmove⟩ := exec_movra_sameOperand ht hroom
  have hu := exec_keeps_ready htu ht
  have hua : u.a.len.toNat ≤ u.cfg.lmax := by rwa [hmove.len, exec_cfg htu]
  obtain ⟨v, huv, hshout, hshr⟩ := (shrDividesByAPowerOfTwo.2.2 u n hu).1 hn hua
  refine ⟨t, u, v, hst, htu, huv, ?_, BitVec.eq_of_toNat_eq ?_⟩
  · calc v.r.signed
      _ = u.a.signed.tdiv (2 ^ n.toNat) := by rw [hshr.signed_eq, signedOf_value_div]
      _ = (s.a.signed * (2 ^ n.toNat)).tdiv (2 ^ n.toNat) := by
        rw [hmove.signed, hsigned, signedOf_value_mul]
      _ = s.a.signed := Int.mul_tdiv_cancel _ (by simp)
  · calc v.shout.toNat
      _ = s.a.value * 2 ^ n.toNat % 2 ^ n.toNat := by rw [hshout, hmove.value, hval]
      _ = 0 := Nat.mul_mod_left _ _

end Sys2Proof.Machine
end

section
/-! PROOFS. The commands NOP, NEG and COPY (43_transfer.md R550 to R552). -/

namespace Sys2Proof

/-- A command without an amount that reads A alone has no shift amount to refuse and moves nothing (30_encoding.md
R303). -/
theorem Instr.unary_of_readsA {i : Instr} (hi : i.isShift = false) (hA : i.readsA = true) :
    i.wf = true ∧ i.movesR = false := by
  cases i <;> simp [Instr.isShift, Instr.readsA, Instr.wf, Instr.movesR] at hi hA ⊢

end Sys2Proof

namespace Sys2Proof.Machine

open Sys2Proof

/-! ### NOP -/

/-- R550: NOP has nothing to check. -/
theorem acceptError_nop (s : State) : acceptError .nop s = none :=
  (acceptError_eq_none_iff .nop s).2 ⟨rfl, nofun, nofun, nofun⟩

/-- Settles O35: NOP is accepted in every state and has no effect of its own. -/
theorem nopOnlyCompletes : Obligations.NopOnlyCompletes := by
  refine ⟨rfl, onlyLegalWord_encode (i := .nop) rfl, fun s => ?_⟩
  have hnop : exec .nop s = .next s.complete := exec_nop_of_accepted (acceptError_nop s)
  exact ⟨hnop, fun hrst hie => ⟨_, hnop, (exec_irq hrst hnop).trans hie⟩⟩

/-! ### NEG and COPY: the integer each writes, in terms of A's -/

theorem exec_neg_eq : exec .neg = command .neg fun s => s.finishInt (-s.a.signed) .none := by
  funext s
  simp only [exec, execNeg, finish_setCmp_eq_finishInt, ← signedOf_negated_sign]
  rfl

theorem exec_copy_eq : exec .copy = command .copy fun s => s.finishInt s.a.signed .none := by
  funext s
  simp only [exec, execCopy, finish_setCmp_eq_finishInt, ← BigReg.signed_eq]

/-- R113: a value needs no more limbs than its operand has. -/
theorem nlen_value_le_len (x : BigReg) : nlen x.value ≤ x.len.toNat :=
  (nlen_limbsVal_le x.operand).trans (List.length_take_le _ _)

/-- LMAX <= RMAX: what fits A or B fits R (00_scope.md R9). -/
theorem Config.le_rmax_of_le_lmax {c : Config} {n : Nat} (h : n ≤ c.lmax) : n ≤ c.rmax := by
  rw [Config.rmax]
  omega

/-- R551, R552, R602 to R604: a command that reads A alone and writes an integer of A's magnitude has one legal word,
completes when A fits, and is refused when it does not. -/
theorem unaryCommand_spec {i : Instr} {g : Int → Int} (hi : i.isShift = false) (hA : i.readsA = true)
    (hB : i.readsB = false) (hf : exec i = command i fun s => s.finishInt (g s.a.signed) .none)
    (hg : ∀ v, (g v).natAbs = v.natAbs) :
    OnlyLegalWord (encode i) ∧ ∀ s : State, s.Ready →
      (s.a.len.toNat ≤ s.cfg.lmax →
        ∃ t, exec i s = .next t ∧ t.r.signed = g s.a.signed ∧
          t.HasResult s.a.value (decide (g s.a.signed < 0)) .none) ∧
      (s.cfg.lmax < s.a.len.toNat →
        exec i s = .next { s with err := true, errcode := .badLength, done := true }) := by
  obtain ⟨hwf, hmoves⟩ := Instr.unary_of_readsA hi hA
  refine ⟨onlyLegalWord_encode hi, fun s hs => ⟨fun ha => ?_, fun hlong => ?_⟩⟩
  · have he : acceptError i s = none :=
      (acceptError_eq_none_iff i s).2 ⟨hwf, fun _ => ha, by simp [hB], by simp [hmoves]⟩
    have hmag : (g s.a.signed).natAbs = s.a.value := by rw [hg, BigReg.signed_natAbs]
    have hfit : nlen (g s.a.signed).natAbs ≤ s.cfg.rmax :=
      hmag ▸ Config.le_rmax_of_le_lmax ((nlen_value_le_len s.a).trans ha)
    exact ⟨_, by rw [hf, command_of_accepted _ he], complete_finishInt_signed _ hs hfit,
      hmag ▸ complete_finishInt_hasResult _ hs hfit⟩
  · exact exec_of_refused (by simp [acceptError, hwf, hA, hlong])

/-- Settles O31: NEG writes the integer -a, which has the magnitude of a. -/
theorem negNegatesTheValue : Obligations.NegNegatesTheValue := by
  have h := unaryCommand_spec rfl rfl rfl exec_neg_eq Int.natAbs_neg
  simp only [Int.neg_neg_iff_pos] at h
  exact ⟨rfl, h⟩

/-- Settles O32: COPY writes the integer a. -/
theorem copyNormalizesTheValue : Obligations.CopyNormalizesTheValue :=
  ⟨rfl, unaryCommand_spec (g := id) rfl rfl rfl exec_copy_eq fun _ => rfl⟩

end Sys2Proof.Machine
end

section
/-! PROOFS. The commands MOVRA and MOVRB (43_transfer.md R556, R557): the limbs a move replaces and keeps, and the
registers of the window it leaves alone. -/

namespace Sys2Proof

/-- The commands that move R read no operand and have no amount (30_encoding.md R303). -/
theorem Instr.reads_of_movesR {i : Instr} (h : i.movesR = true) :
    i.isShift = false ∧ i.wf = true ∧ i.readsA = false ∧ i.readsB = false := by
  cases i <;> simp [Instr.movesR, Instr.isShift, Instr.wf, Instr.readsA, Instr.readsB] at h ⊢

end Sys2Proof

namespace Sys2Proof.Machine

open Sys2Proof

/-! ### The limbs of the target -/

theorem moveFrom_getD_of_lt (x : BigReg) {r : BigReg} {k : Nat} (hr : r.operand.length = r.len.toNat)
    (hk : k < r.len.toNat) : (x.moveFrom r).limbs.getD k 0 = r.limbs.getD k 0 := by
  rw [BigReg.moveFrom, List.getD_append _ _ _ _ (hr ▸ hk), BigReg.operand]
  simp [hk]

theorem moveFrom_getD_of_le (x : BigReg) {r : BigReg} {k : Nat} (hr : r.operand.length = r.len.toNat)
    (hk : r.len.toNat ≤ k) : (x.moveFrom r).limbs.getD k 0 = x.limbs.getD k 0 := by
  rw [BigReg.moveFrom, List.getD_append_right _ _ _ _ (hr ▸ hk), hr]
  simp [Nat.add_sub_cancel' hk]

/-- R556, R557, R602 to R604: a command that puts R into an operand register has one legal word, completes when R fits
there, and is refused when it does not. `x` is the register and `put` its update. -/
theorem moveCommand_spec {i : Instr} {x : State → BigReg} {put : State → BigReg → State} (hm : i.movesR = true)
    (hf : exec i = command i fun s => put s ((x s).moveFrom s.r))
    (hx : ∀ s : State, s.Ready → (x s).limbs.length = s.cfg.lmax) :
    OnlyLegalWord (encode i) ∧ ∀ s : State, s.Ready →
      (s.r.len.toNat ≤ s.cfg.lmax →
        ∃ y : BigReg, exec i s = .next (put s y).complete ∧
          y.len = s.r.len ∧ y.sign = s.r.sign ∧ y.limbs.length = s.cfg.lmax ∧
          (∀ k < s.r.len.toNat, y.limbs.getD k 0 = s.r.limbs.getD k 0) ∧
          (∀ k ≥ s.r.len.toNat, y.limbs.getD k 0 = (x s).limbs.getD k 0)) ∧
      (s.cfg.lmax < s.r.len.toNat →
        exec i s = .next { s with err := true, errcode := .capacity, done := true }) := by
  obtain ⟨hshift, hwf, hA, hB⟩ := Instr.reads_of_movesR hm
  refine ⟨onlyLegalWord_encode hshift, fun s hs => ⟨fun hr => ?_, fun hlong => ?_⟩⟩
  · have he : acceptError i s = none :=
      (acceptError_eq_none_iff i s).2 ⟨hwf, by simp [hA], by simp [hB], fun _ => hr⟩
    have hX := hx s hs
    obtain ⟨-, -, -, hR⟩ := hs
    have hfit := Config.le_rmax_of_le_lmax hr
    have hop := operand_length hR hfit
    exact ⟨(x s).moveFrom s.r, by rw [hf, command_of_accepted _ he], rfl, rfl,
      moveFrom_length hX hR hr hfit, fun _ => moveFrom_getD_of_lt _ hop, fun _ => moveFrom_getD_of_le _ hop⟩
  · exact exec_of_refused (by simp [acceptError, hwf, hA, hB, hm, hlong])

/-- Settles O33: MOVRA puts R into A. -/
theorem movraMovesTheResultIntoA : Obligations.MovraMovesTheResultIntoA :=
  ⟨rfl, moveCommand_spec (i := .movra) (x := State.a) (put := State.setA) rfl rfl fun _ ⟨_, hA, _⟩ => hA⟩

/-- Settles O34: MOVRB puts R into B. -/
theorem movrbMovesTheResultIntoB : Obligations.MovrbMovesTheResultIntoB :=
  ⟨rfl, moveCommand_spec (i := .movrb) (x := State.b) (put := State.setB) rfl rfl fun _ ⟨_, _, hB, _⟩ => hB⟩

/-! ### The frame -/

theorem regWord_refuse (s : State) (code : ErrCode) {reg : RegName} (h : reg ≠ .status) :
    (s.refuse code).regWord reg = s.regWord reg := by
  cases reg with
  | status => exact absurd rfl h
  | _ => rfl

theorem regWord_complete (s : State) {reg : RegName} (h : reg ≠ .status) :
    s.complete.regWord reg = s.regWord reg := by
  cases reg with
  | status => exact absurd rfl h
  | _ => rfl

/-- R556, R557, R603, R604: a move, completed or refused, changes no register but STATUS and those that may show a new
length, sign or limb below LEN_R of its target. -/
theorem exec_move_regWord {i : Instr} {x : State → BigReg} {put : State → BigReg → State} {s t : State}
    {reg : RegName} (hm : i.movesR = true) (hf : exec i = command i fun s => put s ((x s).moveFrom s.r)) (hs : s.Ready)
    (h : exec i s = .next t) (hstatus : reg ≠ .status)
    (hput : ∀ y : BigReg, (∀ k ≥ s.r.len.toNat, y.limbs.getD k 0 = (x s).limbs.getD k 0) →
      (put s y).regWord reg = s.regWord reg) :
    t.regWord reg = s.regWord reg := by
  rw [hf] at h
  rcases command_cases i (fun s => put s ((x s).moveFrom s.r)) s with ⟨code, -, he⟩ | ⟨ha, he⟩
  · obtain rfl : s.refuse code = t := by simpa [he] using h
    exact regWord_refuse s code hstatus
  · obtain rfl : (put s ((x s).moveFrom s.r)).complete = t := by simpa [he] using h
    obtain ⟨-, -, -, hr⟩ := (acceptError_eq_none_iff i s).1 ha
    obtain ⟨-, -, -, hR⟩ := hs
    have hop := operand_length hR (Config.le_rmax_of_le_lmax (hr hm))
    exact (regWord_complete _ hstatus).trans (hput _ fun _ => moveFrom_getD_of_le (x s) hop)

theorem regWord_setA (s : State) {x : BigReg} {reg : RegName} (hlen : reg ≠ .lena)
    (hlimb : ∀ k, reg = .limbA k → x.limbs.getD k 0 = s.a.limbs.getD k 0) :
    (s.setA x).regWord reg = s.regWord reg := by
  cases reg with
  | lena => exact absurd rfl hlen
  | limbA k => simp only [State.regWord, limbWord, State.setA_a, State.setA_cfg, hlimb k rfl]
  | _ => rfl

theorem regWord_setB (s : State) {x : BigReg} {reg : RegName} (hlen : reg ≠ .lenb)
    (hlimb : ∀ k, reg = .limbB k → x.limbs.getD k 0 = s.b.limbs.getD k 0) :
    (s.setB x).regWord reg = s.regWord reg := by
  cases reg with
  | lenb => exact absurd rfl hlen
  | limbB k => simp only [State.regWord, limbWord, State.setB_b, State.setB_cfg, hlimb k rfl]
  | _ => rfl

section Offsets

variable {s : State} {off : Offset} {k : Nat}

/-- The offsets of A's limbs below LEN_R are the words left out of MOVRA's frame. -/
theorem len_le_of_limbA_offset (hd : decodeOffset off = .limbA k)
    (hout : ¬(0x10000 ≤ off.toNat / 4 ∧ off.toNat / 4 < 0x10000 + s.r.len.toNat)) : s.r.len.toNat ≤ k := by
  have hlen := s.r.len.isLt
  have hword := word_of_decodeOffset hd nofun
  rw [RegName.offset, BitVec.toNat_ofNat] at hword
  omega

/-- The offsets of B's limbs below LEN_R are the words left out of MOVRB's frame. -/
theorem len_le_of_limbB_offset (hd : decodeOffset off = .limbB k)
    (hout : ¬(0x20000 ≤ off.toNat / 4 ∧ off.toNat / 4 < 0x20000 + s.r.len.toNat)) : s.r.len.toNat ≤ k := by
  have hlen := s.r.len.isLt
  have hword := word_of_decodeOffset hd nofun
  rw [RegName.offset, BitVec.toNat_ofNat] at hword
  omega

end Offsets

/-- Settles O37: a move writes its target alone, and keeps the target's limbs from LEN_R on. -/
theorem movesFrame : Obligations.MovesFrame := by
  refine fun s t off hs => ⟨fun h h4 h5 hout => ?_, fun h h4 h6 hout => ?_⟩
  · exact exec_move_regWord (i := .movra) (x := State.a) (put := State.setA) rfl rfl hs h
      (fun hd => h4 (word_of_decodeOffset hd nofun)) fun y hy =>
        regWord_setA s (fun hd => h5 (word_of_decodeOffset hd nofun)) fun k hd =>
          hy k (len_le_of_limbA_offset hd hout)
  · exact exec_move_regWord (i := .movrb) (x := State.b) (put := State.setB) rfl rfl hs h
      (fun hd => h4 (word_of_decodeOffset hd nofun)) fun y hy =>
        regWord_setB s (fun hd => h6 (word_of_decodeOffset hd nofun)) fun k hd =>
          hy k (len_le_of_limbB_offset hd hout)

/-! ### NEG twice -/

/-- Settles O42: -a is in A after the move, in the limbs a needs, and NEG makes it a again. -/
theorem negTwiceIsTheIdentity : Obligations.NegTwiceIsTheIdentity := by
  intro s hs ha
  obtain ⟨-, -, hneg⟩ := negNegatesTheValue
  obtain ⟨t, hst, hsigned, -, hval, hlen, -⟩ := (hneg s hs).1 ha
  have ht := exec_keeps_ready hst hs
  have hroom : t.r.len.toNat ≤ t.cfg.lmax := by
    rw [hlen, exec_cfg hst]
    exact (nlen_value_le_len s.a).trans ha
  obtain ⟨u, htu, hmove⟩ := exec_movra_sameOperand ht hroom
  have hu := exec_keeps_ready htu ht
  have hua : u.a.len.toNat ≤ u.cfg.lmax := by rwa [hmove.len, exec_cfg htu]
  obtain ⟨v, huv, hsigned', -, -, hlen', -⟩ := (hneg u hu).1 hua
  refine ⟨t, u, v, hst, htu, huv, ?_, ?_⟩
  · rw [hsigned', hmove.signed, hsigned, Int.neg_neg]
  · rw [hlen', hmove.value, hval]

end Sys2Proof.Machine
end

section
/-! PROOFS. A write to CMD (60_exceptions.md R602): the registers each opcode has checked, and the
outcome of each check. -/

namespace Sys2Proof

/-! ### Which opcodes read A or B, or move R (30_encoding.md R303) -/

theorem Instr.readsA_iff (i : Instr) : i.readsA = true ↔ 0x01 ≤ i.opcode.toNat ∧ i.opcode.toNat ≤ 0x0C := by
  cases i <;> simp [Instr.readsA, Instr.opcode]

theorem Instr.readsB_iff (i : Instr) : i.readsB = true ↔ 0x01 ≤ i.opcode.toNat ∧ i.opcode.toNat ≤ 0x08 := by
  cases i <;> simp [Instr.readsB, Instr.opcode]

theorem Instr.movesR_iff (i : Instr) : i.movesR = true ↔ i.opcode.toNat = 0x0D ∨ i.opcode.toNat = 0x0E := by
  cases i <;> simp [Instr.movesR, Instr.opcode]

end Sys2Proof

namespace Sys2Proof.Machine

open Sys2Proof

/-! ### The checks -/

theorem acceptError_eq_badLength {i : Instr} {s : State} (hwf : i.wf = true)
    (h : (i.readsA = true ∧ s.cfg.lmax < s.a.len.toNat) ∨ (i.readsB = true ∧ s.cfg.lmax < s.b.len.toNat)) :
    acceptError i s = some .badLength := by
  rcases h with ⟨hA, hlong⟩ | ⟨hB, hlong⟩
  · simp [acceptError, hwf, hA, hlong]
  · simp [acceptError, hwf, hB, hlong]

/-- A move reads no operand, so the length of R is the first check it can fail. -/
theorem acceptError_eq_capacity {i : Instr} {s : State} (hm : i.movesR = true) (h : s.cfg.lmax < s.r.len.toNat) :
    acceptError i s = some .capacity := by
  obtain ⟨-, hwf, hA, hB⟩ := Instr.reads_of_movesR hm
  simp [acceptError, hwf, hA, hB, hm, h]

/-! ### A command word written to an idle block -/

theorem submit_of_refused_command {s : State} {w : Word} {i : Instr} {code : ErrCode} (hidle : s.inflight = none)
    (hd : decode w = .cmd i) (ha : acceptError i s = some code) : s.submit w = s.refuse code := by
  simp [State.submit, busy_of_idle hidle, hd, ha]

theorem submit_of_accepted {s : State} {w : Word} {i : Instr} (hidle : s.inflight = none)
    (hd : decode w = .cmd i) (ha : acceptError i s = none) : s.submit w = s.accept i := by
  simp [State.submit, busy_of_idle hidle, hd, ha]

/-- Settles O5: the opcode says which of the three registers a command has checked. -/
theorem cmdWriteFollowsTheAcceptanceOrder : Obligations.CmdWriteFollowsTheAcceptanceOrder := by
  refine fun s w => ⟨fun hbusy => submit_of_busy w hbusy, fun hidle => ⟨fun code hd => ?_, fun i hd => ?_⟩⟩
  · exact submit_of_refused_word hidle hd
  · have hwf := (wf_and_laidOutAs_of_decode hd).1
    refine ⟨fun hlong => ?_, fun ⟨hm, hlong⟩ => ?_, fun hA hB hR => ?_⟩
    · simp only [← and_assoc, ← Instr.readsA_iff, ← Instr.readsB_iff] at hlong
      exact submit_of_refused_command hidle hd (acceptError_eq_badLength hwf hlong)
    · exact submit_of_refused_command hidle hd (acceptError_eq_capacity (i.movesR_iff.2 hm) hlong)
    · simp only [← and_assoc, ← Instr.readsA_iff, ← Instr.readsB_iff, ← Instr.movesR_iff, not_and, not_lt] at hA hB hR
      exact submit_of_accepted hidle hd ((acceptError_eq_none_iff i s).2 ⟨hwf, hA, hB, hR⟩)

end Sys2Proof.Machine
end

section
/-! PROOFS. Runs over a schedule (60_exceptions.md R604, R607, 70_reset_and_hazards.md R713): what a turn does to the
turns still to come, the turns in which nothing happens, and the end of the schedule. -/

namespace Sys2Proof.Machine

open Sys2Proof

/-! ### Runs -/

theorem run_succ {s t : State} (n : Nat) (h : step s = .next t) :
    Sys2Proof.core.run (n + 1) s = Sys2Proof.core.run n t := by
  have hcore : Sys2Proof.core.step s = .next t := h
  simp only [Host.Core.run, hcore]

theorem run_one (s : State) : Sys2Proof.core.run 1 s = step s := by
  have hcore : Sys2Proof.core.step s = step s := rfl
  cases h : step s with
  | next t => exact run_succ 0 h
  | fault e =>
    simp only [Host.Core.run, hcore, h]
    rfl
  | refused e =>
    simp only [Host.Core.run, hcore, h]
    rfl

/-! ### The delay of a completion -/

/-- R602: what a CMD write does does not depend on the accesses to come, and leaves them. -/
theorem submit_inputs (s : State) (w : Word) (l : List Turn) :
    State.submit { s with inputs := l } w = { s.submit w with inputs := l } := by
  by_cases hidle : s.inflight = none
  · cases hd : decode w with
    | refuse code => rw [submit_of_refused_word hidle hd]; exact submit_of_refused_word hidle hd
    | cmd i =>
      cases ha : acceptError i s with
      | some code => rw [submit_of_refused_command hidle hd ha]; exact submit_of_refused_command hidle hd ha
      | none => rw [submit_of_accepted hidle hd ha]; exact submit_of_accepted hidle hd ha
  · rw [submit_of_busy w hidle]; exact submit_of_busy w hidle

/-- A turn that writes CMD submits the word, and the datapath steps if the schedule has it. -/
theorem step_of_cmd_turn {s : State} {w : Word} {d : Bool} {rest : List Turn} (hrst : s.rst = false) :
    step { s with inputs := ⟨.write (s.cfg.base + 0x0C) w, d⟩ :: rest } =
      if d then datapathStep { s.submit w with inputs := rest } else .next { s.submit w with inputs := rest } := by
  have hhost := hostStep_write_cmd (s := { s with inputs := rest }) w hrst
  rw [submit_inputs] at hhost
  rw [step_of_turn rfl]
  simp only [takeTurn, hhost]

/-- Turns in which neither the host nor the datapath does anything only pass. -/
theorem run_idle_turns (k n : Nat) {s : State} {rest : List Turn}
    (h : s.inputs = List.replicate k ⟨.idle, false⟩ ++ rest) :
    Sys2Proof.core.run (k + n) s = Sys2Proof.core.run n { s with inputs := rest } := by
  induction k generalizing s with
  | zero =>
    obtain rfl : s.inputs = rest := h
    rw [Nat.zero_add]
  | succ k ih =>
    have hstep : step s = .next { s with inputs := List.replicate k ⟨.idle, false⟩ ++ rest } := step_of_turn h
    rw [Nat.add_right_comm, run_succ _ hstep, ih rfl]

/-- Settles O7: both runs end with the datapath's step from the state the CMD write left. -/
theorem completionDelayDoesNotMatter : Obligations.CompletionDelayDoesNotMatter := by
  intro s w k rest hrst _
  have hnow : step { s with inputs := ⟨.write (s.cfg.base + 0x0C) w, true⟩ :: rest } =
      datapathStep { s.submit w with inputs := rest } :=
    step_of_cmd_turn hrst
  have hwrite : step { s with inputs := ⟨.write (s.cfg.base + 0x0C) w, false⟩ ::
        (List.replicate k ⟨.idle, false⟩ ++ ⟨.idle, true⟩ :: rest) } =
      .next { s.submit w with inputs := List.replicate k ⟨.idle, false⟩ ++ ⟨.idle, true⟩ :: rest } :=
    step_of_cmd_turn hrst
  have hlast : step { s.submit w with inputs := ⟨.idle, true⟩ :: rest } =
      datapathStep { s.submit w with inputs := rest } := rfl
  rw [run_one, hnow, run_succ (k + 1) hwrite, run_idle_turns k 1 rfl, run_one, hlast]

/-! ### What a turn does to the schedule -/

/-- The parameters, the turns still to come and the level of the reset input: what says which schedules are legal. -/
structure State.SameSchedule (s t : State) : Prop where
  cfg : t.cfg = s.cfg
  inputs : t.inputs = s.inputs
  rst : t.rst = s.rst

theorem busWrite_sameSchedule (s : State) (off : Offset) (v : Word) : s.SameSchedule (s.busWrite off v) := by
  rcases busWrite_cases s off v with h | ⟨-, h⟩ | ⟨-, -, h⟩ | ⟨-, -, h⟩ | ⟨-, h⟩ | ⟨-, h⟩ | ⟨-, x, -, h⟩ |
    ⟨-, x, -, h⟩ <;> rw [h]
  case inr.inr.inr.inr.inr.inl =>
    rcases submit_cases s v with ⟨-, h⟩ | ⟨-, code, -, h⟩ | ⟨-, i, -, -, h⟩ <;> rw [h] <;> exact ⟨rfl, rfl, rfl⟩
  all_goals exact ⟨rfl, rfl, rfl⟩

/-- Only the reset input's own events move its level (70_reset_and_hazards.md R701). -/
theorem hostStep_schedule {x : Access} {s t : State} (h : hostStep x s = .next t) :
    t.cfg = s.cfg ∧ t.inputs = s.inputs ∧ t.rst = x.rstAfter s.rst := by
  rcases hostStep_cases h with ⟨rfl, rfl⟩ | ⟨b, rfl, rfl⟩ | ⟨_, off, rfl, -, -, rfl⟩ | ⟨_, v, off, rfl, -, -, rfl⟩
  · exact ⟨rfl, rfl, rfl⟩
  · rcases setRst_cases s b with ⟨rfl, h⟩ | ⟨rfl, -, h⟩ | ⟨rfl, hrst, h⟩ <;> rw [h]
    · exact ⟨rfl, rfl, rfl⟩
    · exact ⟨rfl, rfl, rfl⟩
    · exact ⟨rfl, rfl, hrst⟩
  · rw [busRead_eq]
    exact ⟨rfl, rfl, rfl⟩
  · have hsame := busWrite_sameSchedule s off v
    exact ⟨hsame.cfg, hsame.inputs, hsame.rst⟩

theorem writes_inputs {i : Instr} {s u : State} (h : Writes i s u) : u.inputs = s.inputs := by
  rcases h with ⟨-, rfl⟩ | ⟨-, rfl⟩ | ⟨-, rfl⟩ | ⟨-, _, _, _, _, rfl, -, -⟩ <;> rfl

theorem exec_inputs {i : Instr} {s t : State} (h : exec i s = .next t) : t.inputs = s.inputs := by
  rcases exec_cases i s with ⟨code, -, he⟩ | ⟨-, u, hw, he⟩
  · obtain rfl : s.refuse code = t := by simpa [he] using h
    rfl
  · obtain rfl : u.complete = t := by simpa [he] using h
    exact (writes_inputs hw : u.inputs = s.inputs)

theorem datapathStep_sameSchedule {s t : State} (h : datapathStep s = .next t) : s.SameSchedule t := by
  rcases datapathStep_cases s with ⟨-, hd⟩ | ⟨i, -, hd⟩
  · obtain rfl : s = t := by simpa [hd] using h
    exact ⟨rfl, rfl, rfl⟩
  · have he : exec i s = .next t := hd ▸ h
    exact ⟨exec_cfg he, exec_inputs he, (exec_sets_done he).1⟩

theorem step_turn_schedule {s t : State} {u : Turn} {rest : List Turn} (hin : s.inputs = u :: rest)
    (h : step s = .next t) : t.cfg = s.cfg ∧ t.inputs = rest ∧ t.rst = u.access.rstAfter s.rst := by
  rcases step_cases h with ⟨hnil, -⟩ | ⟨u', rest', t', hin', hhost, hdatapath⟩
  · rw [hin] at hnil
    cases hnil
  · obtain ⟨rfl, rfl⟩ : u = u' ∧ rest = rest' := by simpa [hin] using hin'
    obtain ⟨hcfg, hinputs, hrst⟩ := hostStep_schedule hhost
    rcases hdatapath with ⟨-, rfl⟩ | ⟨-, hd⟩
    · exact ⟨hcfg, hinputs, hrst⟩
    · have hsame := datapathStep_sameSchedule hd
      exact ⟨hsame.cfg.trans hcfg, hsame.inputs.trans hinputs, hsame.rst.trans hrst⟩

/-! ### The end of the schedule -/

/-- R602, R604: the command in flight has passed its checks, so the datapath's step ends it. -/
theorem datapathStep_ends_idle {s : State} (hs : s.inflightOk = true) :
    ∃ t, datapathStep s = .next t ∧ t.inflight = none := by
  rcases datapathStep_cases s with ⟨hidle, hd⟩ | ⟨i, hi, hd⟩
  · exact ⟨s, hd, hidle⟩
  · rcases exec_cases i s with ⟨code, hcode, -⟩ | ⟨-, u, -, he⟩
    · rw [((inflightOk_iff s).1 hs i hi).1] at hcode
      cases hcode
    · exact ⟨u.complete, hd.trans he, rfl⟩

/-- A legal turn answers, and the turns left after it are a legal schedule of the state it leaves. -/
theorem step_of_legal_turn {s : State} {u : Turn} {rest : List Turn} (hin : s.inputs = u :: rest)
    (hlegal : legalInputs s.cfg s.rst s.inputs = true) :
    ∃ t, step s = .next t ∧ t.inputs = rest ∧ legalInputs t.cfg t.rst t.inputs = true := by
  rw [hin, legalInputs, Bool.and_eq_true] at hlegal
  obtain ⟨haccess, hrest⟩ := hlegal
  obtain ⟨t, ht⟩ := ((stepStopsOnlyOnIllegalAccesses s).2 u rest hin).2 haccess
  obtain ⟨hcfg, hinputs, hrst⟩ := step_turn_schedule hin ht
  exact ⟨t, ht, hinputs, by rw [hcfg, hinputs, hrst, hrest]⟩

/-- Settles O8, by induction on the turns: each keeps the invariant, and the step after the last ends the command. -/
theorem busyEndsWithTheSchedule : Obligations.BusyEndsWithTheSchedule := by
  intro s hs hlegal
  induction hin : s.inputs generalizing s with
  | nil =>
    obtain ⟨-, -, -, hfly, -, -⟩ := hs
    obtain ⟨t, hd, hidle⟩ := datapathStep_ends_idle hfly
    have hstep : step s = .next t := by rw [step, hin, hd]
    exact ⟨t, (run_one s).trans hstep, hidle, (datapathStep_sameSchedule hd).inputs.trans hin⟩
  | cons u rest ih =>
    obtain ⟨s', hstep, hin', hlegal'⟩ := step_of_legal_turn hin hlegal
    rw [List.length_cons, run_succ _ hstep]
    exact ih s' (stepKeepsTheInvariant s s' hs hstep) hlegal' hin'

end Sys2Proof.Machine
end

section
/-! PROOFS. The block under reset and while a command is in flight (70_reset_and_hazards.md R701, R710 to R712):
accesses that are stuck, writes that are dropped, ignored or allowed, and reads that stay exact. -/

namespace Sys2Proof

/-! ### The commands that write R (30_encoding.md R303) -/

theorem Instr.writesR_iff (i : Instr) : i.writesR = true ↔ 0x01 ≤ i.opcode.toNat ∧ i.opcode.toNat ≤ 0x0C := by
  cases i <;> simp [Instr.writesR, Instr.opcode]

end Sys2Proof

namespace Sys2Proof.Machine

open Sys2Proof

/-! ### Accesses while the reset input is asserted (R701) -/

theorem windowOffset_of_mem {cfg : Config} {addr : Nat} (h1 : cfg.base ≤ addr) (h2 : addr < cfg.base + 2 ^ 20) :
    windowOffset cfg addr = some (BitVec.ofNat 20 (addr - cfg.base)) := if_pos ⟨h1, h2⟩

theorem hostStep_read_during_reset {s : State} {addr : Nat} {off : Offset} (hwin : windowOffset s.cfg addr = some off)
    (hrst : s.rst = true) : hostStep (.read addr) s = .fault .accessDuringReset := by
  simp [hostStep, hwin, hrst]

theorem hostStep_write_during_reset {s : State} {addr : Nat} {off : Offset} (v : Word)
    (hwin : windowOffset s.cfg addr = some off) (hrst : s.rst = true) :
    hostStep (.write addr v) s = .fault .accessDuringReset := by
  simp [hostStep, hwin, hrst]

theorem takeTurn_of_fault {u : Turn} {s : State} {e : Fault} (h : hostStep u.access s = .fault e) :
    takeTurn u s = .fault e := by
  simp [takeTurn, h]

/-- Settles O12: the address is in the window, and hostStep answers the fault before any turn of the datapath. -/
theorem accessDuringResetIsStuck : Obligations.AccessDuringResetIsStuck := by
  intro s addr v d rest hrst h1 h2
  have hwin := windowOffset_of_mem h1 h2
  refine ⟨fun hin => ?_, fun hin => ?_⟩ <;> rw [step_of_turn hin] <;> apply takeTurn_of_fault
  · exact hostStep_read_during_reset (s := { s with inputs := rest }) hwin hrst
  · exact hostStep_write_during_reset (s := { s with inputs := rest }) v hwin hrst

/-! ### Writes while busy (R710) -/

theorem busy_of_inflight {s : State} (h : s.inflight ≠ none) : s.busy = true := by
  simpa [State.busy, Option.isSome_iff_ne_none] using h

/-- R710: the registers whose writes are dropped with OVR while busy. -/
def RegName.Locked : RegName → Prop
  | .cmd | .lena | .lenb | .limbA _ | .limbB _ => True
  | .id | .param | .ctrl | .status | .lenr | .shout | .limbR _ | .reserved => False

/-- R213, R710: the registers that ignore every write. -/
def RegName.ReadOnly : RegName → Prop
  | .id | .param | .lenr | .shout | .limbR _ | .reserved => True
  | .ctrl | .cmd | .status | .lena | .lenb | .limbA _ | .limbB _ => False

theorem writeReg_of_locked {s : State} {reg : RegName} (hbusy : s.inflight ≠ none) (h : reg.Locked) (v : Word) :
    s.writeReg v reg = s.drop := by
  have hb := busy_of_inflight hbusy
  cases reg with
  | cmd => exact submit_of_busy v hbusy
  | lena => exact if_pos hb
  | lenb => exact if_pos hb
  | limbA i => exact if_pos hb
  | limbB i => exact if_pos hb
  | _ => exact h.elim

theorem writeReg_of_readOnly (s : State) {reg : RegName} (h : reg.ReadOnly) (v : Word) : s.writeReg v reg = s := by
  cases reg with
  | ctrl | cmd | status | lena | lenb | limbA | limbB => exact h.elim
  | _ => rfl

theorem decodeOffset_locked {off : Offset}
    (h : off.toNat / 4 = 3 ∨ off.toNat / 4 = 5 ∨ off.toNat / 4 = 6 ∨ (0x40000 ≤ off.toNat ∧ off.toNat < 0xC0000)) :
    (decodeOffset off).Locked := by
  rcases h with h | h | h | ⟨h1, h2⟩
  · rw [decodeOffset_congr (off' := 0x0000C) h]
    trivial
  · rw [decodeOffset_congr (off' := 0x00014) h]
    trivial
  · rw [decodeOffset_congr (off' := 0x00018) h]
    trivial
  · by_cases hA : off.toNat < 0x80000
    · rw [decodeOffset_windowA h1 hA]
      trivial
    · rw [decodeOffset_windowB (by omega) h2]
      trivial

theorem decodeOffset_readOnly {off : Offset}
    (h : off.toNat / 4 = 0 ∨ off.toNat / 4 = 1 ∨ (7 ≤ off.toNat / 4 ∧ off.toNat < 0x40000) ∨ 0xC0000 ≤ off.toNat) :
    (decodeOffset off).ReadOnly := by
  rcases h with h | h | ⟨h1, h2⟩ | h
  · rw [decodeOffset_congr (off' := 0x00000) h]
    trivial
  · rw [decodeOffset_congr (off' := 0x00004) h]
    trivial
  · obtain h7 | h8 | h9 : off.toNat / 4 = 7 ∨ off.toNat / 4 = 8 ∨ 0x00024 ≤ off.toNat := by omega
    · rw [decodeOffset_congr (off' := 0x0001C) h7]
      trivial
    · rw [decodeOffset_congr (off' := 0x00020) h8]
      trivial
    · rw [decodeOffset_reserved h9 h2]
      trivial
  · rw [decodeOffset_windowR h]
    trivial

/-- Settles O55: the first offsets reach a locked register, the others a read-only one. -/
theorem busyWritesAreDropped : Obligations.BusyWritesAreDropped := fun s _ v hbusy =>
  ⟨fun h => writeReg_of_locked hbusy (decodeOffset_locked h) v,
    fun h => writeReg_of_readOnly s (decodeOffset_readOnly h) v⟩

/-! ### CTRL and STATUS writes while busy (R711) -/

/-- R602, R701: while a command is in flight DONE, ERR and ERRCODE are clear, and reset is not asserted. -/
theorem State.Inv.busy_status {s : State} (hs : s.Inv) (hbusy : s.inflight ≠ none) :
    s.done = false ∧ s.err = false ∧ s.errcode = .none ∧ s.rst = false := by
  obtain ⟨-, -, -, hfly, hcode, hrst⟩ := hs
  obtain ⟨i, hi⟩ := Option.ne_none_iff_exists'.1 hbusy
  obtain ⟨-, hdone, herr⟩ := (inflightOk_iff s).1 hfly i hi
  refine ⟨hdone, herr, ?_, ?_⟩
  · simpa [herr] using hcode
  · simpa using mt hrst hbusy

theorem writeStatus_of_clear {s : State} (v : Word) (hdone : s.done = false) (herr : s.err = false)
    (hcode : s.errcode = .none) : s.writeStatus v = { s with ovr := s.ovr && !v[3] } := by
  simp [State.writeStatus, hdone, herr, hcode]

/-- Settles O56: SRST says which of its two effects a CTRL write has, and DONE and ERR are clear while busy. -/
theorem busyControlWritesAreAllowed : Obligations.BusyControlWritesAreAllowed := by
  intro s v hs hbusy
  obtain ⟨hdone, herr, hcode, hrst⟩ := hs.busy_status hbusy
  rw [busWrite_ctrl, busWrite_status]
  exact ⟨writeCtrl_of_not_srst s, fun hv => ⟨writeCtrl_hasResetValues hrst hv, by rw [writeCtrl_of_srst s hv]; rfl⟩,
    writeStatus_of_clear v hdone herr hcode⟩

/-! ### Reads while busy (R712) -/

/-- R205: the quarter of the register window a register stands in. -/
def RegName.window : RegName → Nat
  | .id | .param | .ctrl | .cmd | .status | .lena | .lenb | .lenr | .shout | .reserved => 0
  | .limbA _ => 1
  | .limbB _ => 2
  | .limbR _ => 3

theorem window_decodeOffset (off : Offset) : (decodeOffset off).window = off.toNat / 0x40000 := by
  have hlt := off.isLt
  by_cases hA : off.toNat < 0x40000
  · have hwin : off.toNat / 0x40000 = 0 := by omega
    simp only [decodeOffset, hwin]
    split <;> rfl
  by_cases hB : off.toNat < 0x80000
  · rw [decodeOffset_windowA (by omega) hB, RegName.window]
    omega
  by_cases hR : off.toNat < 0xC0000
  · rw [decodeOffset_windowB (by omega) hR, RegName.window]
    omega
  · rw [decodeOffset_windowR (by omega), RegName.window]
    omega

/-- R712: a register none of whose fields the command writes has no unspecified bits. -/
theorem pendingMask_eq_zero {i : Instr} {reg : RegName} (cfg : Config)
    (hR : i.writesR = true → reg.window ≠ 3 ∧ reg ≠ .lenr ∧ reg ≠ .status) (hS : ∀ n, i = .shr n → reg ≠ .shout)
    (hA : i = .movra → reg ≠ .lena ∧ reg.window ≠ 1) (hB : i = .movrb → reg ≠ .lenb ∧ reg.window ≠ 2) :
    pendingMask i cfg reg = 0 := by
  cases reg with
  | limbR k => exact if_neg fun ⟨hi, _⟩ => (hR hi).1 rfl
  | lenr => exact if_neg fun hi => (hR hi).2.1 rfl
  | status => exact if_neg fun hi => (hR hi).2.2 rfl
  | shout =>
    cases i with
    | shr n => exact absurd rfl (hS n rfl)
    | _ => rfl
  | limbA k => exact if_neg fun ⟨hi, _⟩ => (hA hi).2 rfl
  | lena => exact if_neg fun hi => (hA hi).1 rfl
  | limbB k => exact if_neg fun ⟨hi, _⟩ => (hB hi).2 rfl
  | lenb => exact if_neg fun hi => (hB hi).1 rfl
  | _ => rfl

/-- The bits of a word outside the mask of those a draw `f` replaces stay what they are. -/
theorem merge_and_of_disjoint (w f : Word) {m r : Word} (h : m &&& r = 0) :
    ((w &&& ~~~m) ||| (f &&& m)) &&& r = w &&& r := by
  have hdrawn : f &&& m &&& r = 0 := by
    rw [BitVec.and_assoc, h]
    exact BitVec.and_zero
  have hkept : ~~~m &&& r = r := by
    ext k hk
    have hbit : m[k] = true → r[k] = false := by simpa using congrArg (·[k]) h
    cases hm : m[k] <;> simp [hm, hbit]
  rw [BitVec.and_or_distrib_right, hdrawn, BitVec.and_assoc, hkept]
  exact BitVec.or_zero

/-- R712: a read is exact in the bits that are not unspecified. -/
theorem busRead_and_of_specified {s : State} {off : Offset} {r : Word}
    (h : s.unspecified (decodeOffset off) &&& r = 0) :
    (s.busRead off).rdata &&& r = s.regWord (decodeOffset off) &&& r := by
  simp only [State.busRead]
  split
  · rfl
  · exact merge_and_of_disjoint _ _ h

theorem unspecified_of_inflight {s : State} {i : Instr} (h : s.inflight = some i) (reg : RegName) :
    s.unspecified reg = pendingMask i s.cfg reg := by
  simp [State.unspecified, h]

/-- Settles O57: each group of offsets left out holds the registers of one line of R712, and of STATUS only CMP, N and
Z are ever unspecified. -/
theorem busyReadsAreExactElsewhere : Obligations.BusyReadsAreExactElsewhere := by
  intro s i off hfly op q
  have hwin := window_decodeOffset off
  refine ⟨fun hR hS hA hB => ?_, fun h4 => ?_⟩
  · have hexact : s.unspecified (decodeOffset off) = 0 := by
      rw [unspecified_of_inflight hfly]
      refine pendingMask_eq_zero s.cfg (fun hi => ?_) (fun n hi hd => ?_) (fun hi => ?_) (fun hi => ?_)
      · have hop := i.writesR_iff.1 hi
        exact ⟨fun hw => hR ⟨hop, .inl (by omega)⟩, fun hd => hR ⟨hop, .inr (.inl (word_of_decodeOffset hd nofun))⟩,
          fun hd => hR ⟨hop, .inr (.inr (word_of_decodeOffset hd nofun))⟩⟩
      · subst hi
        exact hS ⟨rfl, word_of_decodeOffset hd nofun⟩
      · subst hi
        exact ⟨fun hd => hA ⟨rfl, .inl (word_of_decodeOffset hd nofun)⟩, fun hw => hA ⟨rfl, .inr (by omega)⟩⟩
      · subst hi
        exact ⟨fun hd => hB ⟨rfl, .inl (word_of_decodeOffset hd nofun)⟩, fun hw => hB ⟨rfl, .inr (by omega)⟩⟩
    rw [busRead_exact hexact]
  · have hstatus : decodeOffset off = .status := decodeOffset_congr (off' := 0x00010) h4
    have hflags : s.unspecified (decodeOffset off) &&& 0xFFFFFF0F = 0 := by
      rw [unspecified_of_inflight hfly, hstatus]
      exact ite_and_eq_zero (by decide)
    rw [busRead_and_of_specified hflags, hstatus]
    rfl

end Sys2Proof.Machine
end
